-- ==== Sys2Proof/Word.lean ====
section
/-! DEFINITION. Sys2Proof/Word.lean: the two word types of the block (R8): the byte and the 56-bit frame word. -/

namespace Sys2Proof

/-- A byte of the RX or TX stream (R8). -/
abbrev Byte := BitVec 8

/-- The 56-bit frame word F of R8: interior byte 0 is F[55:48], interior byte 6 is F[7:0]. -/
abbrev FrameWord := BitVec 56

end Sys2Proof
end

