-- ==== Sys2Proof/Config.lean ====
section
/-! DEFINITION. Sys2Proof/Config.lean: the configuration record CFG of R5, its constraints, and the free constants
(opaque, without a body): the open parameters of R5 and the free values the spec leaves open. -/

namespace Sys2Proof

/-- The configuration record CFG (R5, R27): the fields the source does not fix, or fixes only as a default.
The fields the source fixes are constants of Machine/Literals.lean. `fmt_real` is a function and stands below. -/
structure Cfg where
  /-- DEVICE_ID, emitted by every dispatch (R211) -/
  deviceId : List Byte
  /-- FW_VERSION, read by SYS.VER (R151) -/
  fwVersion : List Byte
  /-- LABEL_FREEMEM, written by SYS.MEM (R150) -/
  labelFreemem : List Byte
  /-- PWM_SET, read by ANA.WR (R161), as a rising list -/
  pwmSet : List Nat
  /-- MODE_INPUT (R180, R183) -/
  modeInput : Nat
  /-- MODE_INPUT_PULLUP (R181, R183) -/
  modeInputPullup : Nat
  /-- MODE_OUTPUT (R182, R183) -/
  modeOutput : Nat
  /-- EOL, the line break (R214) -/
  eol : List Byte
  /-- DIAG_PREFIX, the start of the InvalidFrame line (R231) -/
  diagPrefix : List Byte
  /-- RAW_MAX, the capacity of RAW (R127); `none` is infinity -/
  rawMax : Option Nat
deriving DecidableEq, Repr

/-- The constraints R5 puts on the fields (0x25 is SEP): DEVICE_ID and LABEL_FREEMEM free of `%` and of EOL bytes,
PWM_SET within 0..99 (here also a rising list, so that equal sets are equal lists), EOL not empty, RAW_MAX at least 8; and EOL leaves
some byte for `fmt_real`, which R5 makes a total function to non-empty strings free of `%`, of `:` and of EOL bytes. -/
abbrev Cfg.Valid (c : Cfg) : Prop :=
  (∀ b ∈ c.deviceId, b ≠ 0x25#8 ∧ b ∉ c.eol) ∧
  (∀ b ∈ c.labelFreemem, b ≠ 0x25#8 ∧ b ∉ c.eol) ∧
  (∀ p ∈ c.pwmSet, p < 100) ∧ c.pwmSet.Pairwise (· < ·) ∧
  c.eol ≠ [] ∧ (∃ b : Byte, b ∉ 0x25#8 :: 0x3A#8 :: c.eol) ∧
  (∀ n ∈ c.rawMax, 8 ≤ n)

namespace Config

/-- DEVICE_ID before R5's constraint is applied (Machine/Literals.lean drops the bytes it excludes). -/
opaque deviceIdText : List Byte

/-- LABEL_FREEMEM before R5's constraint is applied. -/
opaque labelFreememText : List Byte

/-- Which pins the board's build-time pin table calls PWM-capable (R69); only pins 0..99 are asked. -/
opaque pwmCapable : Nat → Bool

/-- MODE_INPUT of the board (R180). -/
opaque modeInput : Nat

/-- MODE_INPUT_PULLUP of the board (R181). -/
opaque modeInputPullup : Nat

/-- MODE_OUTPUT of the board (R182). -/
opaque modeOutput : Nat

/-- DIAG_PREFIX of the board (R231). -/
opaque diagPrefix : List Byte

/-- RAW_MAX of the board as its excess over 8, `none` for infinity (R5, R127). -/
opaque rawMaxBeyond : Option Nat

/-- Which real number a name of one stands for (R12): any map, so that any real number can be a reading (log entry 11). -/
opaque realNumber : Nat → ℝ

/-- The text of a reading that is a number, before R5's constraint on `fmt_real` is applied (R216). -/
opaque realText : ℝ → List Byte

/-- FREE VALUE: the text of a not-a-number one-wire reading, one per draw (R190, 93_implementation_defined.md U9). -/
opaque nanToken : Nat → List Byte

/-- FREE VALUE: the level a collaborator answers, one per draw (R52). -/
opaque answerLevel : Nat → Bool

/-- FREE VALUE: the natural a collaborator answers, one per draw (R54, R58). -/
opaque answerNumber : Nat → Nat

/-- FREE VALUE: which of the three modes a collaborator answers, one per draw: 0 OUT, 1 IN, otherwise IN_PULLUP (R57). -/
opaque answerMode : Nat → Nat

/-- FREE VALUE: the first reading a collaborator answers, one per draw: `none` for not-a-number, else the name of a real number
(R60, R61). -/
opaque answerFirst : Nat → Option Nat

/-- FREE VALUE: the second reading a collaborator answers, one per draw, as the first (R61). -/
opaque answerSecond : Nat → Option Nat

end Config

end Sys2Proof
end

