-- ==== Sys2Proof/Syntax.lean ====
section
/-! DEFINITION. Sys2Proof/Syntax.lean: the thirteen commands of R90, one constructor per row of the opcode table. -/

namespace Sys2Proof

/-- A command (R90). `pin` is PIN, `val` is VAL, decoded for every command and ignored by those that say so
(R91 to R94). `op` is the operation byte of the three groups that do not examine it (R95). -/
inductive Instr where
  /-- SYS.MEM, `zz`, R150 -/
  | sysMem (pin val : Nat)
  /-- SYS.VER, `zv`, R151 -/
  | sysVer (pin val : Nat)
  /-- ANA.RD, `AR`, R160 -/
  | anaRd (pin val : Nat)
  /-- ANA.WR, `AW`, R161 -/
  | anaWr (pin val : Nat)
  /-- DIG.RD, `DR`, R170 -/
  | digRd (pin val : Nat)
  /-- DIG.WR, `DW`, R171 -/
  | digWr (pin val : Nat)
  /-- MODE.IN, `MI`, R180 -/
  | modeIn (pin val : Nat)
  /-- MODE.PU, `MP`, R181 -/
  | modePu (pin val : Nat)
  /-- MODE.OUT, `MO`, R182 -/
  | modeOut (pin val : Nat)
  /-- MODE.RD, `MR`, R183 -/
  | modeRd (pin val : Nat)
  /-- OW.TEMP, `w`, R190 -/
  | owTemp (op : Byte) (pin val : Nat)
  /-- OW.TEMP.U, `W`, R191 -/
  | owTempU (op : Byte) (pin val : Nat)
  /-- DHT.RD, `S`, R200 -/
  | dhtRd (op : Byte) (pin val : Nat)
deriving DecidableEq, Repr

namespace Instr

/-- PIN of a command (R24). -/
def pin : Instr → Nat
  | sysMem p _ | sysVer p _ | anaRd p _ | anaWr p _ | digRd p _ | digWr p _ => p
  | modeIn p _ | modePu p _ | modeOut p _ | modeRd p _ => p
  | owTemp _ p _ | owTempU _ p _ | dhtRd _ p _ => p

/-- VAL of a command (R25). -/
def val : Instr → Nat
  | sysMem _ v | sysVer _ v | anaRd _ v | anaWr _ v | digRd _ v | digWr _ v => v
  | modeIn _ v | modePu _ v | modeOut _ v | modeRd _ v => v
  | owTemp _ _ v | owTempU _ _ v | dhtRd _ _ v => v

/-- The operation byte of a command whose operation byte is free (R95). -/
def freeOp : Instr → Option Byte
  | sysMem .. | sysVer .. | anaRd .. | anaWr .. | digRd .. | digWr .. => none
  | modeIn .. | modePu .. | modeOut .. | modeRd .. => none
  | owTemp o _ _ | owTempU o _ _ | dhtRd o _ _ => some o

end Instr

end Sys2Proof
end

