-- ==== Sys2Proof/WellFormed.lean ====
section
/-! DEFINITION. Sys2Proof/WellFormed.lean: the commands some frame encodes: PIN in 0..99 (R84), VAL in 0..999 (R85), a free
operation byte other than the end delimiter 0x3E (R82, R95). -/

namespace Sys2Proof

/-- The commands a frame of seven interior bytes can carry. -/
def Instr.wellFormed (i : Instr) : Bool :=
  decide (i.pin < 100) && decide (i.val < 1000) && i.freeOp.all (· != 0x3E#8)

end Sys2Proof
end

