-- ==== Sys2Proof/Decode.lean ====
section
/-! DEFINITION. Sys2Proof/Decode.lean: field decoding (R83 to R89), selection (R142), the decoder, total on any byte string and
rejecting by name, and the encoder written from the same table (R81, R90). -/

namespace Sys2Proof

/-! The letters of R90. -/
namespace Letter

abbrev z : Byte := 0x7A
abbrev v : Byte := 0x76
abbrev A : Byte := 0x41
abbrev R : Byte := 0x52
abbrev W : Byte := 0x57
abbrev D : Byte := 0x44
abbrev M : Byte := 0x4D
abbrev I : Byte := 0x49
abbrev P : Byte := 0x50
abbrev O : Byte := 0x4F
abbrev w : Byte := 0x77
abbrev S : Byte := 0x53

end Letter

/-- R87: the ten bytes 0x30 to 0x39. -/
def isDigit (b : Byte) : Bool := decide (0x30 ≤ b.toNat) && decide (b.toNat ≤ 0x39)

/-- R86: the decimal number a byte string of digits stands for, most significant first; 0 if any byte is no digit. -/
def parseDec (s : List Byte) : Nat :=
  if s.all isDigit then s.foldl (fun n b => 10 * n + (b.toNat - 0x30)) 0 else 0

/-- The four fields of an accepted record (R81). -/
structure Fields where
  cmd : Byte
  op : Byte
  pin : Nat
  val : Nat
deriving DecidableEq, Repr

/-- R125, R129: the fields of a record of exactly seven interior bytes; any other length has none. -/
def fieldsOf : List Byte → Option Fields
  | [b0, b1, b2, b3, b4, b5, b6] => some ⟨b0, b1, parseDec [b2, b3], parseDec [b4, b5, b6]⟩
  | _ => none

/-- Why a record is no command. -/
inductive DecodeError where
  /-- not exactly seven interior bytes (R98) -/
  | wrongLength
  /-- byte 0 is none of the seven command letters (R96) -/
  | unrecognizedCommand
  /-- byte 0 is `z`, `A`, `D` or `M` and byte 1 is not one of that group's letters (R96) -/
  | unrecognizedOperation
deriving DecidableEq, Repr

/-- The result of decoding: a command, or a rejection by name. -/
inductive Decoded where
  | command (i : Instr)
  | rejected (e : DecodeError)
deriving DecidableEq, Repr

/-- The command of a result, if it is one. -/
def Decoded.command? : Decoded → Option Instr
  | .command i => some i
  | .rejected _ => none

/-- R142: selection by the command byte and, for four groups, the operation byte. -/
def select (f : Fields) : Decoded :=
  if f.cmd = Letter.z then
    if f.op = Letter.z then .command (.sysMem f.pin f.val)
    else if f.op = Letter.v then .command (.sysVer f.pin f.val)
    else .rejected .unrecognizedOperation
  else if f.cmd = Letter.A then
    if f.op = Letter.R then .command (.anaRd f.pin f.val)
    else if f.op = Letter.W then .command (.anaWr f.pin f.val)
    else .rejected .unrecognizedOperation
  else if f.cmd = Letter.D then
    if f.op = Letter.R then .command (.digRd f.pin f.val)
    else if f.op = Letter.W then .command (.digWr f.pin f.val)
    else .rejected .unrecognizedOperation
  else if f.cmd = Letter.M then
    if f.op = Letter.I then .command (.modeIn f.pin f.val)
    else if f.op = Letter.P then .command (.modePu f.pin f.val)
    else if f.op = Letter.O then .command (.modeOut f.pin f.val)
    else if f.op = Letter.R then .command (.modeRd f.pin f.val)
    else .rejected .unrecognizedOperation
  else if f.cmd = Letter.w then .command (.owTemp f.op f.pin f.val)
  else if f.cmd = Letter.W then .command (.owTempU f.op f.pin f.val)
  else if f.cmd = Letter.S then .command (.dhtRd f.op f.pin f.val)
  else .rejected .unrecognizedCommand

/-- The decoder: an interior byte string to a command or a rejection by name. -/
def decode (raw : List Byte) : Decoded :=
  match fieldsOf raw with
  | none => .rejected .wrongLength
  | some f => select f

/-- The seven interior bytes of a frame word (R8). -/
def frameBytes (w : FrameWord) : List Byte :=
  [w.extractLsb' 48 8, w.extractLsb' 40 8, w.extractLsb' 32 8, w.extractLsb' 24 8,
   w.extractLsb' 16 8, w.extractLsb' 8 8, w.extractLsb' 0 8]

/-- The interior bytes of an instruction whose bits, numbered as the opcode table numbers them, are the low `nbits` bits of
`w`, the bits above being 0 (R8). -/
def tableBytes (nbits w : Nat) : List Byte := frameBytes (BitVec.ofNat 56 (w % 2 ^ nbits))

/-- What the decoder reads from a word of the opcode table. A word wider than a frame, or one that holds the end delimiter
0x3E at an interior position (R82), is no frame. -/
def decodeTableWord (nbits w : Nat) : Option Instr :=
  if w % 2 ^ nbits < 2 ^ 56 then
    if (tableBytes nbits w).contains 0x3E then none else (decode (tableBytes nbits w)).command?
  else none

/-- The digit byte of a number below 10. -/
def digitByte (n : Nat) : Byte := BitVec.ofNat 8 (0x30 + n)

/-- The five bytes of the pin and value fields, zero-padded decimal (R81, R101). -/
def encodeNumbers (pin val : Nat) : List Byte :=
  [digitByte (pin / 10), digitByte (pin % 10),
   digitByte (val / 100), digitByte (val / 10 % 10), digitByte (val % 10)]

/-- The seven interior bytes of a well-formed command (R81, R90). -/
def encode : Instr → List Byte
  | .sysMem p v => Letter.z :: Letter.z :: encodeNumbers p v
  | .sysVer p v => Letter.z :: Letter.v :: encodeNumbers p v
  | .anaRd p v => Letter.A :: Letter.R :: encodeNumbers p v
  | .anaWr p v => Letter.A :: Letter.W :: encodeNumbers p v
  | .digRd p v => Letter.D :: Letter.R :: encodeNumbers p v
  | .digWr p v => Letter.D :: Letter.W :: encodeNumbers p v
  | .modeIn p v => Letter.M :: Letter.I :: encodeNumbers p v
  | .modePu p v => Letter.M :: Letter.P :: encodeNumbers p v
  | .modeOut p v => Letter.M :: Letter.O :: encodeNumbers p v
  | .modeRd p v => Letter.M :: Letter.R :: encodeNumbers p v
  | .owTemp o p v => Letter.w :: o :: encodeNumbers p v
  | .owTempU o p v => Letter.W :: o :: encodeNumbers p v
  | .dhtRd o p v => Letter.S :: o :: encodeNumbers p v

/-- The frame word of a byte string, first byte most significant (R8). -/
def frameWord (bs : List Byte) : FrameWord :=
  BitVec.ofNat 56 (bs.foldl (fun n b => 256 * n + b.toNat) 0)

end Sys2Proof
end

