-- ==== Sys2Proof/Machine/Literals.lean ====
section
/-! DEFINITION. Sys2Proof/Machine/Literals.lean: the constants of R5 that the source fixes, and the board's configuration record. -/

namespace Sys2Proof.Machine

/-- START, the start delimiter `<` (R5, R121). -/
def startByte : Byte := 0x3C

/-- END, the end delimiter `>` (R5, R124). -/
def endByte : Byte := 0x3E

/-- SEP, the percent delimiter `%` (R5, R212). -/
def sepByte : Byte := 0x25

/-- The colon between humidity and temperature (R200). -/
def colonByte : Byte := 0x3A

/-- LABEL_VERSION, `version` (R5, R151). -/
def labelVersion : List Byte := [0x76, 0x65, 0x72, 0x73, 0x69, 0x6F, 0x6E]

/-- The default of FW_VERSION, `0.7.0` (R5, R151). -/
def defaultFwVersion : List Byte := [0x30, 0x2E, 0x37, 0x2E, 0x30]

/-- The default of EOL, the single byte 0x0A (R5, R214). -/
def defaultEol : List Byte := [0x0A]

/-- OW_RESOLUTION (R5, R190). -/
def owResolution : Nat := 9

/-- MSG_DHT_FAIL, `Failed to read from DHT sensor!` (R5, R200). -/
def msgDhtFail : List Byte :=
  [0x46, 0x61, 0x69, 0x6C, 0x65, 0x64, 0x20, 0x74, 0x6F, 0x20, 0x72, 0x65, 0x61, 0x64, 0x20, 0x66] ++
  [0x72, 0x6F, 0x6D, 0x20, 0x44, 0x48, 0x54, 0x20, 0x73, 0x65, 0x6E, 0x73, 0x6F, 0x72, 0x21]

/-- `text` without the bytes of `bad`: how a free byte string is held to a constraint of R5 (DESIGN CHOICE, log entry 3). Every
byte string that meets the constraint is the result for itself. -/
def keepOut (bad text : List Byte) : List Byte := text.filter (fun b => !bad.contains b)

/-- A byte outside `bad`, as a string of one byte: the least such byte, nothing where `bad` holds every byte (log entry 13). -/
def byteOutside (bad : List Byte) : List Byte :=
  (((List.range 256).map (BitVec.ofNat 8)).find? (fun b => !bad.contains b)).toList

/-- The configuration of the machine at reset (R5, R27): the source's defaults, and the free constants of Config for every
open parameter. -/
def boardCfg : Cfg where
  deviceId := keepOut (sepByte :: defaultEol) Config.deviceIdText
  fwVersion := defaultFwVersion
  labelFreemem := keepOut (sepByte :: defaultEol) Config.labelFreememText
  pwmSet := (List.range 100).filter Config.pwmCapable
  modeInput := Config.modeInput
  modeInputPullup := Config.modeInputPullup
  modeOutput := Config.modeOutput
  eol := defaultEol
  diagPrefix := Config.diagPrefix
  rawMax := Config.rawMaxBeyond.map (8 + ·)

end Sys2Proof.Machine
end

