-- ==== Sys2Proof/Machine/State.lean ====
section
/-! DEFINITION. Sys2Proof/Machine/State.lean: the state of the block as plain data (10_state.md), what the environment has at hand
for it, and the state after reset. -/

namespace Sys2Proof.Machine

/-- PH, the sequencer phase (R20). -/
inductive Phase where
  /-- outside an active frame -/
  | scan
  /-- inside a frame, collecting interior bytes -/
  | collect
  /-- a closed record is being handled -/
  | exec
deriving DecidableEq, Repr

/-- The electrical mode of a pin (R56, R57). -/
inductive PinMode where
  | out
  | inp
  | inpPullup
deriving DecidableEq, Repr

/-- A reading: a real number or not-a-number (R12). State is plain data, so a real number stands in it as a rational number or as
a name, whose number is the free map `Config.realNumber` (log entry 11). -/
inductive Reading where
  | nan
  | rational (q : Rat)
  | real (name : Nat)
deriving DecidableEq, Repr

/-- A call on a collaborator, with its arguments (R52 to R61). -/
inductive Call where
  /-- Cap.freeMemory(), R58 -/
  | freeMemory
  /-- Cap.analogRead(c), R54 -/
  | analogRead (c : Nat)
  /-- Cap.analogWrite(p, d), R55 -/
  | analogWrite (p d : Nat)
  /-- Cap.digitalRead(p), R52 -/
  | digitalRead (p : Nat)
  /-- Cap.digitalWrite(p, l), R53 -/
  | digitalWrite (p : Nat) (level : Bool)
  /-- Cap.pinMode(p, m), R56 -/
  | pinMode (p : Nat) (m : PinMode)
  /-- Cap.readMode(p), R57 -/
  | readMode (p : Nat)
  /-- Sens.owReadTempC(bus, idx, res), R60 -/
  | owReadTempC (bus idx res : Nat)
  /-- Sens.dhtRead(pin, type), R61 -/
  | dhtRead (pin type : Nat)
deriving DecidableEq, Repr

/-- What a collaborator answers to one call (R51): one component of each type a call returns. A call reads the component of
its own type and no other, so any value of the type is possible and no answer is ill-typed (log entry 5). -/
structure Answer where
  /-- the level digitalRead returns -/
  level : Bool
  /-- the natural analogRead and freeMemory return -/
  number : Nat
  /-- the mode readMode returns -/
  mode : PinMode
  /-- the temperature owReadTempC returns, the humidity dhtRead returns -/
  first : Reading
  /-- the temperature dhtRead returns -/
  second : Reading
deriving DecidableEq, Repr

/-- What the dispatch cycle writes once a call has returned. -/
inductive After where
  /-- nothing: the call returns nothing, or more calls follow -/
  | nothing
  /-- LABEL_FREEMEM and the number (R150) -/
  | freeMem
  /-- the number (R160) -/
  | number
  /-- the level, 0 or 1 (R170, R171) -/
  | level
  /-- the constant of the mode (R183) -/
  | mode
  /-- the device index and the temperature (R190) -/
  | temp (idx : Nat)
  /-- humidity and temperature, or the failure message (R200) -/
  | dht
deriving DecidableEq, Repr

/-- A line of a command's rule that the dispatch cycle has still to run (R141). -/
inductive Micro where
  /-- Tx(bytes), R65 -/
  | tx (bytes : List Byte)
  /-- a call still to be made, and what is written when it has returned -/
  | call (c : Call) (k : After)
  /-- a call that has been made and has not returned -/
  | await (c : Call) (k : After)
deriving DecidableEq, Repr

/-- What the outside sees, in the order it happens: the bytes of the TX stream (R29) and the calls (R51, R70). -/
inductive Event where
  /-- a byte written to TX -/
  | sent (b : Byte)
  /-- a call made -/
  | called (c : Call)
  /-- a call returned -/
  | returned (c : Call)
deriving DecidableEq, Repr

/-- An event of the RX stream (R28, R63, R64). -/
inductive RxEvent where
  | byte (b : Byte)
  | boundary
deriving DecidableEq, Repr

/-- What the environment does at one step (R7, R260, R277; log entry 7). -/
inductive Outside where
  /-- nothing -/
  | quiet
  /-- resets the block, before it does anything at this step (R260) -/
  | reset
  /-- sets that the block is reset once it has shown `n` more events, be it in the middle of a dispatch cycle (R260, R262) -/
  | resetIn (n : Nat)
  /-- delivers RX events (R63, R64) -/
  | deliver (es : List RxEvent)
  /-- has the answer to a call ready (R51) -/
  | answer (a : Answer)
  /-- sets how many more bytes the transport takes, `none` for all (R65) -/
  | room (n : Option Nat)
deriving DecidableEq, Repr

/-- The reasons a step can fault: none. "There is no fatal/crash path in the core" (R11, R230); a hang is a state that stays in
EXEC (R277), not a fault. -/
inductive Fault where
deriving DecidableEq, Repr

/-- The reasons an instruction has no meaning. -/
inductive Refusal where
  /-- raised by exec's arm of an instruction that is not modelled; safe. No arm raises it: all thirteen commands have a meaning. -/
  | notModelled (mnemonic : String)
deriving DecidableEq, Repr

/-- The state of the block and of what stands at its interfaces. -/
structure State where
  /-- PH (R20) -/
  ph : Phase
  /-- RAW (R21) -/
  raw : List Byte
  /-- CMD (R22) -/
  cmd : Byte
  /-- OP (R23) -/
  op : Byte
  /-- PIN (R24) -/
  pin : Nat
  /-- VAL (R25) -/
  val : Nat
  /-- a one-wire session and its sensor handle are open (R30) -/
  owOpen : Bool
  /-- a DHT sensor handle is open (R30) -/
  dhtOpen : Bool
  /-- the rest of the running dispatch cycle: the place inside EXEC (R20; log entry 9) -/
  todo : List Micro
  /-- TX stream and calls, oldest first (R29, R51; log entry 10) -/
  trace : List Event
  /-- CFG (R5, R27) -/
  cfg : Cfg
  /-- RX events not yet consumed, held by the transport (R28; log entry 4) -/
  rx : List RxEvent
  /-- answers of the collaborators at hand, in the order of the calls (R51; log entry 5) -/
  answers : List Answer
  /-- beyond `answers` the collaborators answer with free values (true) or not at all (false) (R51, R277; log entry 5) -/
  answering : Bool
  /-- how many bytes the transport still takes, `none` for all (R65; log entry 6) -/
  room : Option Nat
  /-- after how many more events of the trace the block is reset, `none` where no reset is coming (R260, R262; log entry 24) -/
  resetIn : Option Nat
  /-- what the environment does at each coming step; nothing beyond the list (log entry 7) -/
  outside : List Outside
  /-- how many free values have been drawn (log entry 12) -/
  draws : Nat
deriving DecidableEq, Repr

/-- The outcome of a step of this machine. -/
abbrev Result := Host.Outcome State Fault Refusal

/-- The machine right after reset (R35, R261), the block having been switched on: nothing written, nothing received. -/
def State.reset : State where
  ph := .scan
  raw := []
  cmd := 0
  op := 0
  pin := 0
  val := 0
  owOpen := false
  dhtOpen := false
  todo := []
  trace := []
  cfg := boardCfg
  rx := []
  answers := []
  answering := true
  room := none
  resetIn := none
  outside := []
  draws := 0

end Sys2Proof.Machine
end

