-- ==== Sys2Proof/Machine/ResponseEncoder.lean ====
section
/-! DEFINITION. Sys2Proof/Machine/ResponseEncoder.lean: the bytes of replies (48_response_encoder.md): numerals, readings, the
preamble, payload tokens. -/

namespace Sys2Proof.Machine

/-- The decimal digit byte of a number below 10 (R215). -/
def decDigit (n : Nat) : Byte := BitVec.ofNat 8 (0x30 + n)

/-- `dec` with the recursion of R215 bounded by `fuel`; any fuel above the number of digits gives the same numeral. -/
def decFuel : Nat → Nat → List Byte
  | 0, n => [decDigit (n % 10)]
  | fuel + 1, n => if n < 10 then [decDigit n] else decFuel fuel (n / 10) ++ [decDigit (n % 10)]

/-- R215: the shortest decimal numeral of a natural. -/
def dec (n : Nat) : List Byte := decFuel n n

/-- R216, R5: the text of a reading that is a number: free, not empty, without `%`, `:` and EOL bytes (log entry 13). -/
def fmtReal (eol : List Byte) (x : ℝ) : List Byte :=
  match keepOut (sepByte :: colonByte :: eol) (Config.realText x) with
  | [] => byteOutside (sepByte :: colonByte :: eol)
  | b :: bs => b :: bs

/-- R211: the device-identifier token and, unless the command byte is `z`, the pin token, each followed by `%`. -/
def preamble (cfg : Cfg) (c : Byte) (pin : Nat) : List Byte :=
  if c = Letter.z then cfg.deviceId ++ [sepByte]
  else cfg.deviceId ++ [sepByte] ++ dec pin ++ [sepByte]

/-- R12: the real number a reading is, `none` for not-a-number. -/
def Reading.value : Reading → Option ℝ
  | .nan => none
  | .rational q => some (q : ℝ)
  | .real k => some (Config.realNumber k)

/-- A last token and the line break (R212, R214). -/
def lastToken (cfg : Cfg) (token : List Byte) : List Byte := token ++ cfg.eol

/-- Two tokens and the line break (R212, R214). -/
def twoTokens (cfg : Cfg) (first last : List Byte) : List Byte :=
  first ++ [sepByte] ++ lastToken cfg last

/-- R183: the constant that reports a mode. -/
def modeConstant (cfg : Cfg) : PinMode → Nat
  | .out => cfg.modeOutput
  | .inp => cfg.modeInput
  | .inpPullup => cfg.modeInputPullup

/-- The temperature token of the one-wire commands: the formatted reading, or for not-a-number the free value of the draw `n`
(R190, U9; log entry 12). -/
def tempToken (cfg : Cfg) (n : Nat) (r : Reading) : List Byte :=
  match r.value with
  | some x => fmtReal cfg.eol x
  | none => Config.nanToken n

end Sys2Proof.Machine
end

