-- ==== Sys2Proof/Machine/Operands.lean ====
section
/-! DEFINITION. Sys2Proof/Machine/Operands.lean: the field registers (R22 to R26) and the level operand of DIG.WR. -/

namespace Sys2Proof.Machine

/-- R129: the four field registers are written together. -/
def State.writeFields (f : Fields) (s : State) : State :=
  { s with cmd := f.cmd, op := f.op, pin := f.pin, val := f.val }

/-- The four field registers, read together for selection (R142). -/
def State.fields (s : State) : Fields := ⟨s.cmd, s.op, s.pin, s.val⟩

/-- R171: the level a value stands for ("value truthiness"): high for every value but 0. -/
def levelOf (val : Nat) : Bool := val != 0

/-- R52: the number a level prints as. -/
def levelNumber (level : Bool) : Nat := if level then 1 else 0

end Sys2Proof.Machine
end

