-- ==== Sys2Proof/Machine/Flags.lean ====
section
/-! DEFINITION. Sys2Proof/Machine/Flags.lean: the block has no flag register (R32); these are the conditions it computes and
consumes inside one step. The length test of R125 is `fieldsOf` of Decode.lean. -/

namespace Sys2Proof.Machine

/-- R161: the pin is a member of PWM_SET. -/
def pwmCapable (cfg : Cfg) (pin : Nat) : Bool := cfg.pwmSet.contains pin

/-- `isNaN` of R9. -/
def Reading.isNaN : Reading → Bool
  | .nan => true
  | .rational _ | .real _ => false

/-- R200: at least one of the two readings is not-a-number. -/
def dhtFailed (a : Answer) : Bool := a.first.isNaN || a.second.isNaN

/-- R127: RAW has reached RAW_MAX; never when RAW_MAX is infinity. -/
def State.rawFull (s : State) : Bool := s.cfg.rawMax == some s.raw.length

end Sys2Proof.Machine
end

