-- ==== Sys2Proof/Machine/Ops.lean ====
section
/-! DEFINITION. Sys2Proof/Machine/Ops.lean: the shared operations: writing to TX (R65), calling a collaborator (R51), the five
conditions and their handling (R230 to R235), running a dispatch cycle to its end or to a wait (R141, R145, R277), reset (R262)
and what the environment does at a step. -/

namespace Sys2Proof.Machine

/-! ### Writing to TX (R65) -/

/-- Bytes of TX as events. -/
def sent (bytes : List Byte) : List Event := bytes.map Event.sent

/-- The TX stream (R29): all bytes the block has written, in order. -/
def State.tx (s : State) : List Byte :=
  s.trace.filterMap fun e => match e with
    | .sent b => some b
    | .called _ | .returned _ => none

/-- The collaborator calls made, in order (R51). -/
def State.calls (s : State) : List Call :=
  s.trace.filterMap fun e => match e with
    | .called c => some c
    | .sent _ | .returned _ => none

/-- How many bytes can be written now, `none` for all: what the transport takes, and what comes before a reset (R65, R262). -/
def State.limit (s : State) : Option Nat :=
  match s.room, s.resetIn with
  | none, none => none
  | none, some n => some n
  | some m, none => some m
  | some m, some n => some (min m n)

/-- The part of `bytes` that is written now. -/
def State.taken (s : State) (bytes : List Byte) : List Byte :=
  match s.limit with
  | none => bytes
  | some n => bytes.take n

/-- The part of `bytes` that is not written now. -/
def State.unsent (s : State) (bytes : List Byte) : List Byte :=
  match s.limit with
  | none => []
  | some n => bytes.drop n

/-- R65: what can be written of `bytes` now is appended to the TX stream. -/
def State.emit (bytes : List Byte) (s : State) : State :=
  { s with trace := s.trace ++ sent (s.taken bytes), room := s.room.map (· - (s.taken bytes).length),
           resetIn := s.resetIn.map (· - (s.taken bytes).length) }

/-! ### Calls on collaborators (R51) -/

/-- The mode a free number stands for. -/
def modeOfNat : Nat → PinMode
  | 0 => .out
  | 1 => .inp
  | _ + 2 => .inpPullup

/-- The reading a free value stands for. -/
def readingOf : Option Nat → Reading
  | none => .nan
  | some k => .real k

/-- The free answer of a draw: any value of each type (R51, U1; log entry 5). -/
def freeAnswer (n : Nat) : Answer where
  level := Config.answerLevel n
  number := Config.answerNumber n
  mode := modeOfNat (Config.answerMode n)
  first := readingOf (Config.answerFirst n)
  second := readingOf (Config.answerSecond n)

/-- The answer a call gets now, if it gets one now. -/
def State.nextAnswer (s : State) : Option Answer :=
  match s.answers with
  | a :: _ => some a
  | [] => if s.answering then some (freeAnswer s.draws) else none

/-- The answer at hand is used up. -/
def State.popAnswer (s : State) : State :=
  { s with answers := s.answers.tail, draws := if s.answers.isEmpty then s.draws + 1 else s.draws }

/-- The call opens a one-wire session (R60). -/
def Call.usesOneWire : Call → Bool
  | .owReadTempC .. => true
  | .freeMemory | .analogRead _ | .analogWrite .. | .digitalRead _ | .digitalWrite .. | .pinMode .. | .readMode _
  | .dhtRead .. => false

/-- The call opens a DHT sensor handle (R61). -/
def Call.usesDht : Call → Bool
  | .dhtRead .. => true
  | .freeMemory | .analogRead _ | .analogWrite .. | .digitalRead _ | .digitalWrite .. | .pinMode .. | .readMode _
  | .owReadTempC .. => false

/-- R51, R30: a call is made, once; a sensor call opens its handle. -/
def State.issue (c : Call) (s : State) : State :=
  { s with trace := s.trace ++ [.called c], resetIn := s.resetIn.map (· - 1),
           owOpen := s.owOpen || c.usesOneWire, dhtOpen := s.dhtOpen || c.usesDht }

/-- R51, R30: the outstanding call returns; its handle is released before anything is written (R60, R61). -/
def State.settle (c : Call) (s : State) : State :=
  { s.popAnswer with trace := s.trace ++ [.returned c], resetIn := s.resetIn.map (· - 1),
                     owOpen := s.owOpen && !c.usesOneWire, dhtOpen := s.dhtOpen && !c.usesDht }

/-! ### The conditions (60_exceptions.md) -/

/-- R230: the closed taxonomy. -/
inductive Condition where
  /-- R231 -/
  | invalidFrame (raw : List Byte)
  /-- R232 -/
  | unrecognizedCommand
  /-- R233 -/
  | unrecognizedOperation
  /-- R234 -/
  | sensorReadFailure
  /-- R235 -/
  | nonPwmPinWrite
deriving DecidableEq, Repr

/-- What the handling of a condition writes (R231 to R235). -/
def Condition.report (cfg : Cfg) : Condition → List Byte
  | .invalidFrame raw => cfg.diagPrefix ++ raw ++ cfg.eol
  | .unrecognizedCommand => []
  | .unrecognizedOperation => []
  | .sensorReadFailure => lastToken cfg msgDhtFail
  | .nonPwmPinWrite => []

/-- R242: the handling of a condition, in place: nothing is saved, nothing else is done than what R231 to R235 write. -/
def Condition.handling (cfg : Cfg) (c : Condition) : List Micro := [.tx (c.report cfg)]

/-! ### Running a dispatch cycle -/

/-- What is written once a call has returned the answer `a` (R219). -/
def State.payload (k : After) (a : Answer) (s : State) : List Byte :=
  match k with
  | .nothing => []
  | .freeMem => twoTokens s.cfg s.cfg.labelFreemem (dec a.number)
  | .number => lastToken s.cfg (dec a.number)
  | .level => lastToken s.cfg (dec (levelNumber a.level))
  | .mode => lastToken s.cfg (dec (modeConstant s.cfg a.mode))
  | .temp idx => twoTokens s.cfg (dec idx) (tempToken s.cfg s.draws a.first)
  | .dht =>
    if dhtFailed a then Condition.sensorReadFailure.report s.cfg
    else match a.first.value, a.second.value with
      | some h, some t => lastToken s.cfg (fmtReal s.cfg.eol h ++ [colonByte] ++ fmtReal s.cfg.eol t)
      | none, _ | _, none => Condition.sensorReadFailure.report s.cfg

/-- The payload of a one-wire reading that is not-a-number uses up a free value. -/
def After.drawsToken (k : After) (a : Answer) : Bool :=
  match k with
  | .temp _ => a.first.isNaN
  | .nothing | .freeMem | .number | .level | .mode | .dht => false

/-- The draw of a free token, where the payload uses one. -/
def State.noteDraw (k : After) (a : Answer) (s : State) : State :=
  { s with draws := if k.drawsToken a then s.draws + 1 else s.draws }

/-- Tx(bytes), then the rest of the cycle; what is not written now is left to do (R65, R262). -/
def State.sendThen (bytes : List Byte) (rest : List Micro) (go : State → State) (s : State) : State :=
  match s.unsent bytes with
  | [] => go (s.emit bytes)
  | b :: bs => { s.emit bytes with todo := .tx (b :: bs) :: rest }

/-- The block is reset before it shows another event (R262). -/
def State.struck (s : State) : Bool := s.resetIn == some 0

/-- The return of a call that has been made, then what is written with its answer, then the rest of the cycle; a call that has no
answer now is left outstanding (R51, R277), as is one that a reset overtakes (R262). -/
def State.awaitThen (c : Call) (k : After) (rest : List Micro) (go : State → State) (s : State) : State :=
  match if s.struck then none else s.nextAnswer with
  | none => { s with todo := .await c k :: rest }
  | some a => ((s.settle c).noteDraw k a).sendThen ((s.settle c).payload k a) rest go

/-- The making of a call, then its return and the rest of the cycle; a call that a reset overtakes is left to do (R51, R262). -/
def State.callThen (c : Call) (k : After) (rest : List Micro) (go : State → State) (s : State) : State :=
  if s.struck then { s with todo := .call c k :: rest } else (s.issue c).awaitThen c k rest go

/-- The end of a dispatch cycle (R145), of a condition's handling (R243): PH <- SCAN, nothing kept. -/
def State.endCycle (s : State) : State := { s with ph := .scan, todo := [] }

/-- R141: the lines of a dispatch cycle in order, to its end or to the first wait. -/
def run : List Micro → State → State
  | [], s => s.endCycle
  | .tx bytes :: rest, s => s.sendThen bytes rest (run rest)
  | .call c k :: rest, s => s.callThen c k rest (run rest)
  | .await c k :: rest, s => s.awaitThen c k rest (run rest)

/-- PH <- EXEC and the lines of a cycle (R125, R141). -/
def State.begin (lines : List Micro) (s : State) : State := run lines { s with ph := .exec }

/-- R230, R242: a condition raised while a record is handled, after `before` has been written. -/
def State.raise (before : List Byte) (c : Condition) (s : State) : State :=
  s.begin (.tx before :: c.handling s.cfg)

/-! ### Reset and the environment -/

/-- R261, R262: reset of the block at any time: the block's state as R35 gives it; what has been written stays written, and the
environment is left alone (R265). -/
def State.resetBlock (s : State) : State :=
  { s with ph := .scan, raw := [], cmd := State.reset.cmd, op := State.reset.op, pin := State.reset.pin,
           val := State.reset.val, owOpen := false, dhtOpen := false, todo := [] }

/-- R262: the reset that was to come once the block has shown so many events, where it has shown them. -/
def State.strike (s : State) : State :=
  if s.struck then { s.resetBlock with resetIn := none } else s

/-- What the environment does at a step. -/
def State.hear (e : Outside) (s : State) : State :=
  match e with
  | .quiet => s
  | .reset => s.resetBlock
  | .resetIn n => { s with resetIn := some n }
  | .deliver es => { s with rx := s.rx ++ es }
  | .answer a => { s with answers := s.answers ++ [a] }
  | .room n => { s with room := n }

end Sys2Proof.Machine
end

