-- ==== Sys2Proof/Machine/Analog.lean ====
section
/-! DEFINITION. Sys2Proof/Machine/Analog.lean: group `A` (43_analog.md). -/

namespace Sys2Proof.Machine

/-- R160 ANA.RD. VAL is ignored. -/
def execAnaRd (pin _val : Nat) (s : State) : Result :=
  .next (s.begin [.tx (preamble s.cfg Letter.A pin), .call (.analogRead pin) .number])

/-- R161 ANA.WR: the write only for a pin in PWM_SET, otherwise NonPwmPinWrite (R235); the echo of VAL on both paths. -/
def execAnaWr (pin val : Nat) (s : State) : Result :=
  .next (s.begin (
    .tx (preamble s.cfg Letter.A pin) ::
      ((if pwmCapable s.cfg pin then [.call (.analogWrite pin val) .nothing]
        else Condition.nonPwmPinWrite.handling s.cfg) ++
      [.tx (lastToken s.cfg (dec val))])))

end Sys2Proof.Machine
end

