-- ==== Sys2Proof/Machine/Dht.lean ====
section
/-! DEFINITION. Sys2Proof/Machine/Dht.lean: group `S` (47_dht.md). -/

namespace Sys2Proof.Machine

/-- R200 DHT.RD on data pin PIN, sensor type VAL. The operation byte is not examined. -/
def execDhtRd (_op : Byte) (pin val : Nat) (s : State) : Result :=
  .next (s.begin [.tx (preamble s.cfg Letter.S pin), .call (.dhtRead pin val) .dht])

end Sys2Proof.Machine
end

