-- ==== Sys2Proof/Machine/Digital.lean ====
section
/-! DEFINITION. Sys2Proof/Machine/Digital.lean: group `D` (44_digital.md). -/

namespace Sys2Proof.Machine

/-- R170 DIG.RD. VAL is ignored. -/
def execDigRd (pin _val : Nat) (s : State) : Result :=
  .next (s.begin [.tx (preamble s.cfg Letter.D pin), .call (.digitalRead pin) .level])

/-- R171 DIG.WR: the write of VAL's truth value, then a fresh read, whose level is the reply. -/
def execDigWr (pin val : Nat) (s : State) : Result :=
  .next (s.begin [.tx (preamble s.cfg Letter.D pin),
    .call (.digitalWrite pin (levelOf val)) .nothing, .call (.digitalRead pin) .level])

end Sys2Proof.Machine
end

