-- ==== Sys2Proof/Machine/OneWire.lean ====
section
/-! DEFINITION. Sys2Proof/Machine/OneWire.lean: groups `w` and `W` (46_onewire.md). -/

namespace Sys2Proof.Machine

/-- The one-wire read of bus PIN, device VAL, resolution OW_RESOLUTION; `c` is the command byte, for the preamble (R190). -/
def oneWireRead (c : Byte) (pin val : Nat) (s : State) : State :=
  s.begin [.tx (preamble s.cfg c pin), .call (.owReadTempC pin val owResolution) (.temp val)]

/-- R190 OW.TEMP. The operation byte is not examined. -/
def execOwTemp (_op : Byte) (pin val : Nat) (s : State) : Result := .next (oneWireRead Letter.w pin val s)

/-- R191 OW.TEMP.U: as OW.TEMP. The operation byte is not examined. -/
def execOwTempU (_op : Byte) (pin val : Nat) (s : State) : Result := .next (oneWireRead Letter.W pin val s)

end Sys2Proof.Machine
end

