-- ==== Sys2Proof/Machine/PinModes.lean ====
section
/-! DEFINITION. Sys2Proof/Machine/PinModes.lean: group `M` (45_pinmode.md). VAL is ignored by all four. -/

namespace Sys2Proof.Machine

/-- A configuring command: the call, then the constant of the mode asked for (R180 to R182). -/
def configurePin (pin : Nat) (m : PinMode) (s : State) : State :=
  s.begin [.tx (preamble s.cfg Letter.M pin), .call (.pinMode pin m) .nothing,
    .tx (lastToken s.cfg (dec (modeConstant s.cfg m)))]

/-- R180 MODE.IN. -/
def execModeIn (pin _val : Nat) (s : State) : Result := .next (configurePin pin .inp s)

/-- R181 MODE.PU. -/
def execModePu (pin _val : Nat) (s : State) : Result := .next (configurePin pin .inpPullup s)

/-- R182 MODE.OUT. -/
def execModeOut (pin _val : Nat) (s : State) : Result := .next (configurePin pin .out s)

/-- R183 MODE.RD: the constant of the mode read now. -/
def execModeRd (pin _val : Nat) (s : State) : Result :=
  .next (s.begin [.tx (preamble s.cfg Letter.M pin), .call (.readMode pin) .mode])

end Sys2Proof.Machine
end

