-- ==== Sys2Proof/Machine/System.lean ====
section
/-! DEFINITION. Sys2Proof/Machine/System.lean: group `z` (42_system.md). -/

namespace Sys2Proof.Machine

/-- R150 SYS.MEM. PIN and VAL are ignored. -/
def execSysMem (pin _val : Nat) (s : State) : Result :=
  .next (s.begin [.tx (preamble s.cfg Letter.z pin), .call .freeMemory .freeMem])

/-- R151 SYS.VER: no call is made (R59). PIN and VAL are ignored. -/
def execSysVer (pin _val : Nat) (s : State) : Result :=
  .next (s.begin [.tx (preamble s.cfg Letter.z pin), .tx (twoTokens s.cfg labelVersion s.cfg.fwVersion)])

end Sys2Proof.Machine
end

