-- ==== Sys2Proof/Machine/Dispatch.lean ====
section
/-! DEFINITION. Sys2Proof/Machine/Dispatch.lean: one arm per command (R141, R142). -/

namespace Sys2Proof.Machine

def exec (i : Instr) (s : State) : Host.Outcome State Fault Refusal :=
  match i with
  | .sysMem pin val => Sys2Proof.Machine.execSysMem pin val s
  | .sysVer pin val => Sys2Proof.Machine.execSysVer pin val s
  | .anaRd pin val => Sys2Proof.Machine.execAnaRd pin val s
  | .anaWr pin val => Sys2Proof.Machine.execAnaWr pin val s
  | .digRd pin val => Sys2Proof.Machine.execDigRd pin val s
  | .digWr pin val => Sys2Proof.Machine.execDigWr pin val s
  | .modeIn pin val => Sys2Proof.Machine.execModeIn pin val s
  | .modePu pin val => Sys2Proof.Machine.execModePu pin val s
  | .modeOut pin val => Sys2Proof.Machine.execModeOut pin val s
  | .modeRd pin val => Sys2Proof.Machine.execModeRd pin val s
  | .owTemp op pin val => Sys2Proof.Machine.execOwTemp op pin val s
  | .owTempU op pin val => Sys2Proof.Machine.execOwTempU op pin val s
  | .dhtRd op pin val => Sys2Proof.Machine.execDhtRd op pin val s

end Sys2Proof.Machine
end

