-- ==== Sys2Proof/Machine/FrameDecoder.lean ====
section
/-! DEFINITION. Sys2Proof/Machine/FrameDecoder.lean: the Frame Decoder (40_frame_decoder.md), the common part of the dispatcher
(41_dispatch.md) and one action of the sequencer. Each operation is given the state after its RX event has been consumed. -/

namespace Sys2Proof.Machine

/-- R130 RX.IDLE: nothing changes. -/
def rxIdle (s : State) : Result := .next s

/-- R122 RX.NOISE: the byte is dropped. -/
def rxNoise (s : State) : Result := .next s

/-- R121 RX.START. -/
def rxStart (s : State) : Result := .next { s with raw := [], ph := .collect }

/-- R143, R144: the preamble and nothing else; it reads CMD and PIN (R211). -/
def dropUnrecognized (c : Condition) (s : State) : Result :=
  .next (s.raise (preamble s.cfg s.cmd s.pin) c)

/-- R141, R142: selection from the field registers and the command's meaning, or the silent drop. -/
def dispatch (s : State) : Result :=
  match select s.fields with
  | .command i => exec i s
  | .rejected .unrecognizedCommand => dropUnrecognized .unrecognizedCommand s
  | .rejected .unrecognizedOperation => dropUnrecognized .unrecognizedOperation s
  | .rejected .wrongLength => .next (s.raise [] (.invalidFrame s.raw))

/-- R125 RX.CLOSE: seven bytes are decoded and dispatched, any other length raises InvalidFrame (R231). -/
def rxClose (s : State) : Result :=
  match fieldsOf s.raw with
  | some f => dispatch (s.writeFields f)
  | none => .next (s.raise [] (.invalidFrame s.raw))

/-- R124 RX.END: the end delimiter closes the record and is not stored. -/
def rxEnd (s : State) : Result := rxClose s

/-- R126 RX.BOUND: a boundary closes the record as the end delimiter does. -/
def rxBound (s : State) : Result := rxClose s

/-- R127 RX.FULL: a full RAW closes the record. -/
def rxFull (s : State) : Result := rxClose s

/-- R123 RX.DATA: the byte is appended, whatever it is (R128). -/
def rxData (b : Byte) (s : State) : Result :=
  if State.rawFull { s with raw := s.raw ++ [b] } then rxFull { s with raw := s.raw ++ [b] }
  else .next { s with raw := s.raw ++ [b] }

/-- R120: what an RX event does in phase SCAN. -/
def scanEvent (e : RxEvent) (s : State) : Result :=
  match e with
  | .boundary => rxIdle s
  | .byte b => if b = startByte then rxStart s else rxNoise s

/-- R120: what an RX event does in phase COLLECT. -/
def collectEvent (e : RxEvent) (s : State) : Result :=
  match e with
  | .boundary => rxBound s
  | .byte b => if b = endByte then rxEnd s else rxData b s

/-- One action of the sequencer: in SCAN and COLLECT one poll of the transport (R120), in EXEC the rest of the dispatch cycle with
no poll (R270, R277). -/
def act (s : State) : Result :=
  match s.ph with
  | .exec => .next (run s.todo s)
  | .scan =>
    match s.rx with
    | [] => rxIdle s
    | e :: es => scanEvent e { s with rx := es }
  | .collect =>
    match s.rx with
    | [] => rxIdle s
    | e :: es => collectEvent e { s with rx := es }

/-- An outcome and, where it falls due in it, the reset that has cut it short (R260, R262). -/
def strikeAfter : Result → Result
  | .next t => .next t.strike
  | .fault e => .fault e
  | .refused r => .refused r

/-- One step: what the environment does at it, then one action; a step at which the block is reset first does nothing else
(R260). -/
def stepWithOutside (s : State) : Result :=
  match s.outside with
  | [] => strikeAfter (act s)
  | .reset :: rest => .next { s.resetBlock with outside := rest }
  | e :: rest => strikeAfter (act ({ s with outside := rest }.hear e))

/-- The state whose next step consumes the end delimiter of a frame with these interior bytes, no reset coming (log entry 14). -/
def placeFrame (bytes : List Byte) (s : State) : State :=
  { s with ph := .collect, raw := bytes, rx := .byte endByte :: s.rx, outside := .quiet :: s.outside,
           resetIn := none }

end Sys2Proof.Machine
end

