-- ==== Sys2Proof/Machine/Step.lean ====
section
/-! DEFINITION. Sys2Proof/Machine/Step.lean: one step of the machine, and how an instruction word is placed for the next step. -/

namespace Sys2Proof.Machine

/-- One step (R11): always a next state; a hang and an idle poll are states that stay. -/
def step (s : State) : Host.Outcome State Fault Refusal := stepWithOutside s

/-- `s` with the instruction whose bits are `w` received up to its last interior byte, the end delimiter being the next RX event
(log entry 14). -/
def State.withFetchWord (s : State) (nbits w : Nat) : State := placeFrame (tableBytes nbits w) s

end Sys2Proof.Machine
end

