-- ==== Sys2Proof/Safety.lean ====
section
/-! DEFINITION. Sys2Proof/Safety.lean: what claims about the block talk about: the machine's invariant, idle and hung states, the
rows of the opcode table, the decoder as a function (R131), the constraint that keeps replies parseable (R281). -/

namespace Sys2Proof.Machine

/-! ### Flowing, waiting, hung and idle states -/

/-- What a dispatch cycle needs of the outside besides answers: the transport takes every byte, and no reset is coming (R285). -/
abbrev State.Flows (s : State) : Prop := s.room = none ∧ s.resetIn = none

/-- Nothing comes from outside at this step or later, and no reset is coming. -/
abbrev State.Quiet (s : State) : Prop := s.outside = [] ∧ s.resetIn = none

/-- A line that is a call already made. -/
def Micro.isAwait : Micro → Bool
  | .await .. => true
  | .tx _ | .call .. => false

/-- The line that is waited at is an outstanding one-wire call. -/
def awaitsOneWire : List Micro → Bool
  | .await c _ :: _ => c.usesOneWire
  | .tx _ :: _ | .call .. :: _ | [] => false

/-- The line that is waited at is an outstanding DHT call. -/
def awaitsDht : List Micro → Bool
  | .await c _ :: _ => c.usesDht
  | .tx _ :: _ | .call .. :: _ | [] => false

/-- The block is stopped at a collaborator: at an outstanding call without an answer at hand, or at bytes the transport does not
take (R277). -/
def State.blocked (s : State) : Bool :=
  match s.todo with
  | .await .. :: _ => s.nextAnswer.isNone
  | .tx (_ :: _) :: _ => s.room == some 0
  | .tx [] :: _ | .call .. :: _ | [] => false

/-- The hang of R277: in EXEC, stopped at a collaborator, and nothing more ever comes from outside. -/
abbrev State.Hung (s : State) : Prop := s.ph = .exec ∧ s.blocked = true ∧ s.Quiet

/-- The idle poll of R11 and R130: not in EXEC, no RX event, and nothing more ever comes from outside. -/
abbrev State.Idle (s : State) : Prop := s.ph ≠ .exec ∧ s.rx = [] ∧ s.Quiet

/-! ### The invariant -/

/-- What holds between any two steps: CFG meets R5; PIN and VAL are in range (R24, R25); while a frame is open RAW holds no end
delimiter (R82) and has not reached RAW_MAX (R127); a dispatch cycle is under way only in EXEC, where the block is stopped at a
collaborator; a handle is open exactly while its call is outstanding (R30), and at most one call is outstanding (R51); a reset that falls
due strikes in the step it falls due in (R262). -/
structure State.Inv (s : State) : Prop where
  cfg : s.cfg.Valid
  pin : s.pin < 100
  val : s.val < 1000
  rawBytes : s.ph = .collect → endByte ∉ s.raw
  rawRoom : s.ph = .collect → ∀ n ∈ s.cfg.rawMax, s.raw.length < n
  idleTodo : s.ph ≠ .exec → s.todo = []
  execBlocked : s.ph = .exec → s.blocked = true
  oneWire : s.owOpen = awaitsOneWire s.todo
  dht : s.dhtOpen = awaitsDht s.todo
  oneCall : ∀ m ∈ s.todo.tail, m.isAwait = false
  notStruck : s.struck = false

/-! ### The opcode table -/

/-- The row of the opcode table a command belongs to: its mask and match over the frame word (R8, R90). -/
def rowOf : Instr → FrameWord × FrameWord
  | .sysMem .. => (0xFFFF0000000000, 0x7A7A0000000000)
  | .sysVer .. => (0xFFFF0000000000, 0x7A760000000000)
  | .anaRd .. => (0xFFFF0000000000, 0x41520000000000)
  | .anaWr .. => (0xFFFF0000000000, 0x41570000000000)
  | .digRd .. => (0xFFFF0000000000, 0x44520000000000)
  | .digWr .. => (0xFFFF0000000000, 0x44570000000000)
  | .modeIn .. => (0xFFFF0000000000, 0x4D490000000000)
  | .modePu .. => (0xFFFF0000000000, 0x4D500000000000)
  | .modeOut .. => (0xFFFF0000000000, 0x4D4F0000000000)
  | .modeRd .. => (0xFFFF0000000000, 0x4D520000000000)
  | .owTemp .. => (0xFF000000000000, 0x77000000000000)
  | .owTempU .. => (0xFF000000000000, 0x57000000000000)
  | .dhtRd .. => (0xFF000000000000, 0x53000000000000)

/-- The thirteen rows of the opcode table. -/
def tableRows : List (FrameWord × FrameWord) :=
  [.sysMem 0 0, .sysVer 0 0, .anaRd 0 0, .anaWr 0 0, .digRd 0 0, .digWr 0 0, .modeIn 0 0, .modePu 0 0,
   .modeOut 0 0, .modeRd 0 0, .owTemp 0 0 0, .owTempU 0 0 0, .dhtRd 0 0 0].map rowOf

/-- The call a command makes first, as its rule writes it, and what follows its return; none for SYS.VER and for ANA.WR on a pin
outside PWM_SET (R68, R219). -/
def firstCall (cfg : Cfg) : Instr → Option Call
  | .sysMem _ _ => some .freeMemory
  | .sysVer _ _ => none
  | .anaRd p _ => some (.analogRead p)
  | .anaWr p v => if p ∈ cfg.pwmSet then some (.analogWrite p v) else none
  | .digRd p _ => some (.digitalRead p)
  | .digWr p v => some (.digitalWrite p (v != 0))
  | .modeIn p _ => some (.pinMode p .inp)
  | .modePu p _ => some (.pinMode p .inpPullup)
  | .modeOut p _ => some (.pinMode p .out)
  | .modeRd p _ => some (.readMode p)
  | .owTemp _ p v => some (.owReadTempC p v 9)
  | .owTempU _ p v => some (.owReadTempC p v 9)
  | .dhtRd _ p v => some (.dhtRead p v)

end Sys2Proof.Machine

namespace Sys2Proof

/-- A command of group `z`, whose preamble has no pin token (R211). -/
def Instr.isSystem : Instr → Bool
  | .sysMem .. | .sysVer .. => true
  | .anaRd .. | .anaWr .. | .digRd .. | .digWr .. | .modeIn .. | .modePu .. | .modeOut .. | .modeRd .. => false
  | .owTemp .. | .owTempU .. | .dhtRd .. => false

end Sys2Proof

namespace Sys2Proof.Machine

/-- R211: the preamble of group `z`: DEVICE_ID `%`. -/
def idPreamble (c : Cfg) : List Byte := c.deviceId ++ [0x25#8]

/-- R211: the preamble of every other command byte: DEVICE_ID `%` pin `%`. -/
def pinPreamble (c : Cfg) (p : Nat) : List Byte := c.deviceId ++ [0x25#8] ++ dec p ++ [0x25#8]

/-- How what the block writes for a closed record begins (R218): the preamble of a record of seven bytes, recognised or not, or the
whole diagnostic line of any other (its layout is D10). -/
def itemStart (c : Cfg) (raw : List Byte) : List Byte :=
  match fieldsOf raw with
  | some f => if f.cmd = Letter.z then idPreamble c else pinPreamble c f.pin
  | none => c.diagPrefix ++ raw ++ c.eol

/-- A byte pair selects no command (R96): an unrecognised command byte, or an unrecognised operation of `z`, `A`, `D` or `M`. -/
def unrecognized (c o : Byte) : Bool :=
  !([Letter.z, Letter.A, Letter.D, Letter.M, Letter.w, Letter.W, Letter.S].contains c) ||
  (c == Letter.z && !([Letter.z, Letter.v].contains o)) ||
  ((c == Letter.A || c == Letter.D) && !([Letter.R, Letter.W].contains o)) ||
  (c == Letter.M && !([Letter.I, Letter.P, Letter.O, Letter.R].contains o))

/-- `n` steps of the machine, stopping at the first that is no next state. -/
def steps (n : Nat) (s : State) : Result := Host.Core.run Sys2Proof.core n s

/-- The state after a handling that ran to its end (R145), having shown the outside the events `es`. -/
def State.replied (es : List Event) (s : State) : State :=
  { s with ph := .scan, todo := [], trace := s.trace ++ es }

/-! ### The decoder as a function -/

/-- R131: the closed records of a finite RX event list, in order; `none` stands for phase SCAN, `some raw` for COLLECT. -/
def frames (rawMax : Option Nat) : Option (List Byte) → List RxEvent → List (List Byte)
  | _, [] => []
  | none, .boundary :: es => frames rawMax none es
  | none, .byte b :: es => if b = startByte then frames rawMax (some []) es else frames rawMax none es
  | some raw, .boundary :: es => raw :: frames rawMax none es
  | some raw, .byte b :: es =>
    if b = endByte then raw :: frames rawMax none es
    else if rawMax = some (raw.length + 1) then (raw ++ [b]) :: frames rawMax none es
    else frames rawMax (some (raw ++ [b])) es

/-- What handling one closed record does to the state (R131: the reply of an accepted record, the diagnostic of a rejected one). -/
def State.serve (s : State) (raw : List Byte) : State :=
  match rxClose { s with raw := raw } with
  | .next t => t
  | .fault _ | .refused _ => s

end Sys2Proof.Machine

namespace Sys2Proof

/-! ### Parseable replies -/

/-- R281: the configuration that keeps replies parseable: no token holds `%` or an EOL byte, and EOL holds neither a digit nor
`%`. -/
abbrev Cfg.ParseSafe (c : Cfg) : Prop :=
  (∀ b ∈ c.deviceId ++ c.labelFreemem ++ Machine.labelVersion ++ c.fwVersion ++ Machine.msgDhtFail, b ≠ Machine.sepByte ∧ b ∉ c.eol) ∧
  (∀ b ∈ c.eol, b ≠ Machine.sepByte ∧ isDigit b = false)

end Sys2Proof
end

