-- ==== Sys2Proof/Certificates/Slice0/Obligations.lean ====
section
/-! DEFINITION. Sys2Proof/Certificates/Slice0/Obligations.lean: the statements for the provers, in the order of the spec's files.
In the byte strings 0x25 is `%`, 0x3A is `:`, 0x3C is `<`, 0x3E is `>`. -/

open Sys2Proof Sys2Proof.Machine

/-! ### Encoding (30_encoding.md) -/

/-- R81, R90, R101: every well-formed command is read back from its encoding with every operand, and its encoding can stand
between the delimiters (R82). -/
def Obligations.DecodeOfEncodeIsIdentity : Prop :=
  ∀ i : Instr, i.wellFormed = true → decode (encode i) = .command i ∧ (encode i).length = 7 ∧ 0x3E#8 ∉ encode i

/-- R82, R84, R85: a record without an end delimiter inside decodes only to well-formed commands. -/
def Obligations.DecodedCommandIsWellFormed : Prop :=
  ∀ (raw : List Byte) (i : Instr), 0x3E#8 ∉ raw → decode raw = .command i → i.wellFormed = true

/-- The table of R90 as opcode_table.json gives it: a frame word decodes to a command of a row exactly if it matches that row
under the row's mask. -/
def Obligations.FrameWordMatchesItsRow : Prop :=
  ∀ (w : FrameWord) (r : FrameWord × FrameWord),
    (∃ i, decode (frameBytes w) = .command i ∧ rowOf i = r) ↔ (r ∈ tableRows ∧ w &&& r.1 = r.2)

/-- Words written out from the encodings of R150 to R200 decode to their commands: `zz12345`, `zv00000`, `AR03000`, `AW09128`,
`DR08000`, `DW07001`, `MI05000`, `MP02000`, `MO05000`, `MR05000`, `wR02003`, `WR05001`, `S014002`. -/
def Obligations.KnownWordsDecode : Prop :=
  decodeTableWord 56 0x7A7A3132333435 = some (.sysMem 12 345) ∧
  decodeTableWord 56 0x7A763030303030 = some (.sysVer 0 0) ∧
  decodeTableWord 56 0x41523033303030 = some (.anaRd 3 0) ∧
  decodeTableWord 56 0x41573039313238 = some (.anaWr 9 128) ∧
  decodeTableWord 56 0x44523038303030 = some (.digRd 8 0) ∧
  decodeTableWord 56 0x44573037303031 = some (.digWr 7 1) ∧
  decodeTableWord 56 0x4D493035303030 = some (.modeIn 5 0) ∧
  decodeTableWord 56 0x4D503032303030 = some (.modePu 2 0) ∧
  decodeTableWord 56 0x4D4F3035303030 = some (.modeOut 5 0) ∧
  decodeTableWord 56 0x4D523035303030 = some (.modeRd 5 0) ∧
  decodeTableWord 56 0x77523032303033 = some (.owTemp 0x52 2 3) ∧
  decodeTableWord 56 0x57523035303031 = some (.owTempU 0x52 5 1) ∧
  decodeTableWord 56 0x53303134303032 = some (.dhtRd 0x30 14 2)

/-- R86, R87, R66: a field of two or three bytes is the decimal number of its digits, most significant first, and 0 as soon as
one byte is no digit (that reading of a partly numeric field is D7, log entry 23). -/
def Obligations.ParseDecIsDecimalOrZero : Prop :=
  (∀ b : Byte, isDigit b = true ↔ 0x30 ≤ b.toNat ∧ b.toNat ≤ 0x39) ∧
  (∀ a b : Byte, isDigit a = true → isDigit b = true →
    parseDec [a, b] = 10 * (a.toNat - 0x30) + (b.toNat - 0x30)) ∧
  (∀ a b c : Byte, isDigit a = true → isDigit b = true → isDigit c = true →
    parseDec [a, b, c] = 100 * (a.toNat - 0x30) + 10 * (b.toNat - 0x30) + (c.toNat - 0x30)) ∧
  (∀ s : List Byte, (∃ b ∈ s, isDigit b = false) → parseDec s = 0)

/-- R83, R84, R85, R129: the fields of seven interior bytes, with their ranges; no other length has fields (R98). -/
def Obligations.FieldsOfSevenBytes : Prop :=
  (∀ b0 b1 b2 b3 b4 b5 b6 : Byte,
    fieldsOf [b0, b1, b2, b3, b4, b5, b6] = some ⟨b0, b1, parseDec [b2, b3], parseDec [b4, b5, b6]⟩ ∧
    parseDec [b2, b3] < 100 ∧ parseDec [b4, b5, b6] < 1000) ∧
  (∀ raw : List Byte, fieldsOf raw = none ↔ raw.length ≠ 7)

/-- R142: the selection table, for every PIN and VAL; `w`, `W` and `S` do not examine the operation byte (R95; for
`w` and `W` an inference D18 marks as its own), and everything else is rejected under one of the two names. -/
def Obligations.SelectionTable : Prop :=
  (∀ p v : Nat,
    select ⟨0x7A#8, 0x7A#8, p, v⟩ = .command (.sysMem p v) ∧ select ⟨0x7A#8, 0x76#8, p, v⟩ = .command (.sysVer p v) ∧
    select ⟨0x41#8, 0x52#8, p, v⟩ = .command (.anaRd p v) ∧ select ⟨0x41#8, 0x57#8, p, v⟩ = .command (.anaWr p v) ∧
    select ⟨0x44#8, 0x52#8, p, v⟩ = .command (.digRd p v) ∧ select ⟨0x44#8, 0x57#8, p, v⟩ = .command (.digWr p v) ∧
    select ⟨0x4D#8, 0x49#8, p, v⟩ = .command (.modeIn p v) ∧ select ⟨0x4D#8, 0x50#8, p, v⟩ = .command (.modePu p v) ∧
    select ⟨0x4D#8, 0x4F#8, p, v⟩ = .command (.modeOut p v) ∧ select ⟨0x4D#8, 0x52#8, p, v⟩ = .command (.modeRd p v)) ∧
  (∀ (o : Byte) (p v : Nat),
    select ⟨0x77#8, o, p, v⟩ = .command (.owTemp o p v) ∧ select ⟨0x57#8, o, p, v⟩ = .command (.owTempU o p v) ∧
    select ⟨0x53#8, o, p, v⟩ = .command (.dhtRd o p v)) ∧
  (∀ (c o : Byte) (p v : Nat), c ∉ [0x7A#8, 0x41#8, 0x44#8, 0x4D#8, 0x77#8, 0x57#8, 0x53#8] →
    select ⟨c, o, p, v⟩ = .rejected .unrecognizedCommand) ∧
  (∀ (o : Byte) (p v : Nat),
    (o ∉ [0x7A#8, 0x76#8] → select ⟨0x7A#8, o, p, v⟩ = .rejected .unrecognizedOperation) ∧
    (o ∉ [0x52#8, 0x57#8] → select ⟨0x41#8, o, p, v⟩ = .rejected .unrecognizedOperation) ∧
    (o ∉ [0x52#8, 0x57#8] → select ⟨0x44#8, o, p, v⟩ = .rejected .unrecognizedOperation) ∧
    (o ∉ [0x49#8, 0x50#8, 0x4F#8, 0x52#8] → select ⟨0x4D#8, o, p, v⟩ = .rejected .unrecognizedOperation))

/-! ### The frame decoder (40_frame_decoder.md) -/

/-- R121 RX.START. -/
def Obligations.StartDelimiterOpensFrame : Prop :=
  ∀ (s : State) (rest : List RxEvent), s.ph = .scan → s.Quiet → s.rx = .byte 0x3C#8 :: rest →
    step s = .next { s with rx := rest, raw := [], ph := .collect }

/-- R122 RX.NOISE: any byte but `<` outside a frame is consumed and nothing else changes. -/
def Obligations.NoiseIsDropped : Prop :=
  ∀ (s : State) (b : Byte) (rest : List RxEvent), s.ph = .scan → s.Quiet → s.rx = .byte b :: rest → b ≠ 0x3C#8 →
    step s = .next { s with rx := rest }

/-- R123, R128 RX.DATA: any byte but `>` in an open frame, `<` among them, is appended; RAW does not reach RAW_MAX here. -/
def Obligations.InteriorByteIsAppended : Prop :=
  ∀ (s : State) (b : Byte) (rest : List RxEvent), s.ph = .collect → s.Quiet → s.rx = .byte b :: rest → b ≠ 0x3E#8 →
    s.cfg.rawMax ≠ some (s.raw.length + 1) → step s = .next { s with rx := rest, raw := s.raw ++ [b] }

/-- R125, R126, R231: `>` or a read boundary closes a record whose length is not 7 with one diagnostic line (its layout is
D10), and nothing else: no field register is written, no call is made. -/
def Obligations.WrongLengthIsReportedOnce : Prop :=
  ∀ (s : State) (e : RxEvent) (rest : List RxEvent), s.ph = .collect → s.outside = [] → s.Flows → s.rx = e :: rest →
    (e = .byte 0x3E#8 ∨ e = .boundary) → s.raw.length ≠ 7 →
    step s = .next (State.replied (sent (s.cfg.diagPrefix ++ s.raw ++ s.cfg.eol)) { s with rx := rest })

/-- R127 RX.FULL: the byte that fills RAW closes the record, always with the diagnostic of the RAW_MAX bytes, in the layout of R231
(D10 calls it the spec's own guess). -/
def Obligations.FullBufferClosesRecord : Prop :=
  ∀ (s : State) (b : Byte) (rest : List RxEvent) (n : Nat), s.ph = .collect → s.outside = [] → s.Flows →
    s.rx = .byte b :: rest → b ≠ 0x3E#8 → s.cfg.rawMax = some n → 8 ≤ n → s.raw.length + 1 = n →
    step s = .next (State.replied (sent (s.cfg.diagPrefix ++ (s.raw ++ [b]) ++ s.cfg.eol))
      { s with rx := rest, raw := s.raw ++ [b] })

/-- R130 RX.IDLE: no event in SCAN or COLLECT changes nothing (for any number of steps), and a boundary in SCAN is ignored. -/
def Obligations.IdlePollChangesNothing : Prop :=
  (∀ (s : State) (n : Nat), s.Idle → steps n s = .next s) ∧
  (∀ (s : State) (rest : List RxEvent), s.ph = .scan → s.Quiet → s.rx = .boundary :: rest →
    step s = .next { s with rx := rest })

/-- R132 (a): seven bytes between `<` and `>`, the `<` received in SCAN, no boundary inside, RAW_MAX at least 8, are dispatched with
the four fields decoded: the ninth event runs the dispatch. -/
def Obligations.WholeFrameIsDispatched : Prop :=
  ∀ (s : State) (b0 b1 b2 b3 b4 b5 b6 : Byte) (rest : List RxEvent), s.ph = .scan → s.Quiet →
    (∀ n ∈ s.cfg.rawMax, 8 ≤ n) → 0x3E#8 ∉ [b0, b1, b2, b3, b4, b5, b6] →
    s.rx = .byte 0x3C#8 :: ([b0, b1, b2, b3, b4, b5, b6].map RxEvent.byte ++ .byte 0x3E#8 :: rest) →
    ∃ u, steps 8 s = .next u ∧
      step u = dispatch { s with ph := .collect, raw := [b0, b1, b2, b3, b4, b5, b6], rx := rest, cmd := b0, op := b1,
                                 pin := parseDec [b2, b3], val := parseDec [b4, b5, b6] }

/-- R132 (b): a record of any other length between `<` and `>` is never dispatched and is reported exactly once: all that the run
over it leaves behind is the diagnostic, in the layout of R231 (D10 calls it the spec's own guess). -/
def Obligations.WholeBadRecordIsReportedOnce : Prop :=
  ∀ (s : State) (raw : List Byte) (rest : List RxEvent), s.ph = .scan → s.outside = [] → s.Flows →
    (∀ n ∈ s.cfg.rawMax, raw.length < n) → raw.length ≠ 7 → 0x3E#8 ∉ raw →
    s.rx = .byte 0x3C#8 :: (raw.map RxEvent.byte ++ .byte 0x3E#8 :: rest) →
    steps (raw.length + 2) s =
      .next (State.replied (sent (s.cfg.diagPrefix ++ raw ++ s.cfg.eol)) { s with raw := raw, rx := rest })

/-- R131: over any finite RX event list, with collaborators that answer, a transport that takes every byte and no reset, the block
consumes one event a step and what it shows the outside is, in order, what handling each record of `frames` shows. Premise of every
claim over several frames: no transport overrun, which the lossless `rx` builds in (R271, log entry 4). -/
def Obligations.DecoderIsFramesFunction : Prop :=
  ∀ s : State, s.ph = .scan → s.outside = [] → s.Flows → s.answering = true →
    ∃ t, steps s.rx.length s = .next t ∧ t.rx = [] ∧ t.ph ≠ .exec ∧
      t.trace = ((frames s.cfg.rawMax none s.rx).foldl State.serve s).trace

/-! ### Dispatch (41_dispatch.md) -/

/-- R141, R142: when a record that decodes to a command is closed by `>` or a boundary, the step writes the four field registers
(R129) and is exec of that command; where a reset falls due in the cycle (R262), the reset follows what exec did until then. -/
def Obligations.StepRunsDecodedCommand : Prop :=
  ∀ (s : State) (e : RxEvent) (rest : List RxEvent) (i : Instr), s.ph = .collect → s.outside = [] → s.rx = e :: rest →
    (e = .byte 0x3E#8 ∨ e = .boundary) → decode s.raw = .command i →
    ∃ f, fieldsOf s.raw = some f ∧ f.pin = i.pin ∧ f.val = i.val ∧
      step s = strikeAfter (exec i { s with rx := rest, cmd := f.cmd, op := f.op, pin := f.pin, val := f.val }) ∧
      (s.resetIn = none → step s = exec i { s with rx := rest, cmd := f.cmd, op := f.op, pin := f.pin, val := f.val })

/-- How a word of the opcode table is placed (the model's own, log entry 14) and run: the very next step is exec of the command
decodeTableWord reads. -/
def Obligations.PlacedWordRunsNext : Prop :=
  ∀ (s : State) (w : Nat) (i : Instr), decodeTableWord 56 w = some i →
    ∃ f, fieldsOf (tableBytes 56 w) = some f ∧
      step (s.withFetchWord 56 w) = exec i { s with ph := .collect, raw := tableBytes 56 w, cmd := f.cmd, op := f.op,
                                                    pin := f.pin, val := f.val, resetIn := none }

/-- R143: an unrecognised command writes the identifier and the pin token, no line break, and makes no call. -/
def Obligations.UnrecognizedCommandWritesPreambleOnly : Prop :=
  ∀ (s : State) (e : RxEvent) (rest : List RxEvent) (f : Fields), s.ph = .collect → s.outside = [] → s.Flows →
    s.rx = e :: rest → (e = .byte 0x3E#8 ∨ e = .boundary) → fieldsOf s.raw = some f →
    f.cmd ∉ [0x7A#8, 0x41#8, 0x44#8, 0x4D#8, 0x77#8, 0x57#8, 0x53#8] →
    step s = .next (State.replied (sent (pinPreamble s.cfg f.pin))
      { s with rx := rest, cmd := f.cmd, op := f.op, pin := f.pin, val := f.val })

/-- R144: an unrecognised operation writes the preamble, no line break, and makes no call: for `A`, `D`, `M` with the pin token, for
`z` without. -/
def Obligations.UnrecognizedOperationWritesPreambleOnly : Prop :=
  ∀ (s : State) (e : RxEvent) (rest : List RxEvent) (f : Fields), s.ph = .collect → s.outside = [] → s.Flows →
    s.rx = e :: rest → (e = .byte 0x3E#8 ∨ e = .boundary) → fieldsOf s.raw = some f →
    (((f.cmd = 0x41#8 ∨ f.cmd = 0x44#8) ∧ f.op ∉ [0x52#8, 0x57#8] ∨ f.cmd = 0x4D#8 ∧ f.op ∉ [0x49#8, 0x50#8, 0x4F#8, 0x52#8]) →
      step s = .next (State.replied (sent (pinPreamble s.cfg f.pin))
        { s with rx := rest, cmd := f.cmd, op := f.op, pin := f.pin, val := f.val })) ∧
    (f.cmd = 0x7A#8 → f.op ∉ [0x7A#8, 0x76#8] →
      step s = .next (State.replied (sent (idPreamble s.cfg))
        { s with rx := rest, cmd := f.cmd, op := f.op, pin := f.pin, val := f.val }))

/-! ### The commands (42_system.md to 47_dht.md), everything flowing (R285) and each call being answered -/

/-- R150 SYS.MEM. -/
def Obligations.SysMemReportsFreeMemory : Prop :=
  ∀ (p v : Nat) (s : State) (a : Answer), s.Flows → s.nextAnswer = some a →
    exec (.sysMem p v) s = .next (s.popAnswer.replied
      (sent (idPreamble s.cfg) ++ [.called .freeMemory, .returned .freeMemory] ++
       sent (s.cfg.labelFreemem ++ [0x25#8] ++ dec a.number ++ s.cfg.eol)))

/-- R151 SYS.VER: `version`, `%`, the version string; no call. -/
def Obligations.SysVerReportsVersion : Prop :=
  ∀ (p v : Nat) (s : State), s.Flows →
    exec (.sysVer p v) s = .next (s.replied
      (sent (idPreamble s.cfg) ++
       sent (labelVersion ++ [0x25#8] ++ s.cfg.fwVersion ++ s.cfg.eol)))

/-- R160 ANA.RD. -/
def Obligations.AnaRdReportsReading : Prop :=
  ∀ (p v : Nat) (s : State) (a : Answer), s.Flows → s.nextAnswer = some a →
    exec (.anaRd p v) s = .next (s.popAnswer.replied
      (sent (pinPreamble s.cfg p) ++ [.called (.analogRead p), .returned (.analogRead p)] ++
       sent (dec a.number ++ s.cfg.eol)))

/-- R161 ANA.WR: a pin in PWM_SET is written with VAL as it is; for any other pin there is no call; the echo of VAL is the same. -/
def Obligations.AnaWrWritesPwmPinsOnly : Prop :=
  ∀ (p v : Nat) (s : State), s.Flows →
    (∀ a : Answer, p ∈ s.cfg.pwmSet → s.nextAnswer = some a →
      exec (.anaWr p v) s = .next (s.popAnswer.replied
        (sent (pinPreamble s.cfg p) ++
         [.called (.analogWrite p v), .returned (.analogWrite p v)] ++ sent (dec v ++ s.cfg.eol)))) ∧
    (p ∉ s.cfg.pwmSet →
      exec (.anaWr p v) s = .next (s.replied
        (sent (pinPreamble s.cfg p) ++ sent (dec v ++ s.cfg.eol))))

/-- R235: whatever the transport and the collaborators do, ANA.WR on a pin outside PWM_SET makes no call. -/
def Obligations.NonPwmPinIsNeverWritten : Prop :=
  ∀ (p v : Nat) (s t : State), p ∉ s.cfg.pwmSet → exec (.anaWr p v) s = .next t → t.calls = s.calls

/-- R170 DIG.RD. -/
def Obligations.DigRdReportsLevel : Prop :=
  ∀ (p v : Nat) (s : State) (a : Answer), s.Flows → s.nextAnswer = some a →
    exec (.digRd p v) s = .next (s.popAnswer.replied
      (sent (pinPreamble s.cfg p) ++ [.called (.digitalRead p), .returned (.digitalRead p)] ++
       sent ((if a.level then [0x31#8] else [0x30#8]) ++ s.cfg.eol)))

/-- R171 DIG.WR: level 1 for every VAL but 0 is written, then the pin is read, and the level read (of the second answer) is
reported. -/
def Obligations.DigWrReportsLevelReadBack : Prop :=
  ∀ (p v : Nat) (s : State) (a o : Answer), s.Flows → s.nextAnswer = some a → s.popAnswer.nextAnswer = some o →
    exec (.digWr p v) s = .next (s.popAnswer.popAnswer.replied
      (sent (pinPreamble s.cfg p) ++
       [.called (.digitalWrite p (if v = 0 then false else true)),
        .returned (.digitalWrite p (if v = 0 then false else true)),
        .called (.digitalRead p), .returned (.digitalRead p)] ++
       sent ((if o.level then [0x31#8] else [0x30#8]) ++ s.cfg.eol)))

/-- R180, R181, R182 MODE.IN, MODE.PU, MODE.OUT: the pin is configured and the constant of the mode asked for is reported. -/
def Obligations.PinModeIsConfigured : Prop :=
  ∀ (p v : Nat) (s : State) (a : Answer), s.Flows → s.nextAnswer = some a →
    exec (.modeIn p v) s = .next (s.popAnswer.replied
      (sent (pinPreamble s.cfg p) ++ [.called (.pinMode p .inp), .returned (.pinMode p .inp)] ++
       sent (dec s.cfg.modeInput ++ s.cfg.eol))) ∧
    exec (.modePu p v) s = .next (s.popAnswer.replied
      (sent (pinPreamble s.cfg p) ++
       [.called (.pinMode p .inpPullup), .returned (.pinMode p .inpPullup)] ++
       sent (dec s.cfg.modeInputPullup ++ s.cfg.eol))) ∧
    exec (.modeOut p v) s = .next (s.popAnswer.replied
      (sent (pinPreamble s.cfg p) ++ [.called (.pinMode p .out), .returned (.pinMode p .out)] ++
       sent (dec s.cfg.modeOutput ++ s.cfg.eol)))

/-- R183 MODE.RD: the mode answered now decides the constant reported. Which constant reports which mode is the
spec's own choice (D14, N24). -/
def Obligations.ModeRdReportsModeRead : Prop :=
  ∀ (p v : Nat) (s : State) (a : Answer), s.Flows → s.nextAnswer = some a →
    exec (.modeRd p v) s = .next (s.popAnswer.replied
      (sent (pinPreamble s.cfg p) ++ [.called (.readMode p), .returned (.readMode p)] ++
       sent (dec (match a.mode with
                  | .out => s.cfg.modeOutput
                  | .inp => s.cfg.modeInput
                  | .inpPullup => s.cfg.modeInputPullup) ++ s.cfg.eol)))

/-- R190, R191 OW.TEMP and OW.TEMP.U with a reading that is a number: index and temperature are reported; the operation byte plays
no part (R95); the session is closed. The layout and the free operation byte are inferences D19 and D18 mark as their own. -/
def Obligations.OneWireReportsTemperature : Prop :=
  ∀ (op : Byte) (p v : Nat) (s : State) (a : Answer) (x : ℝ), s.Flows → s.nextAnswer = some a → a.first.value = some x →
    ∀ i : Instr, i = .owTemp op p v ∨ i = .owTempU op p v →
      exec i s = .next { s.popAnswer.replied
        (sent (pinPreamble s.cfg p) ++ [.called (.owReadTempC p v 9), .returned (.owReadTempC p v 9)] ++
         sent (dec v ++ [0x25#8] ++ fmtReal s.cfg.eol x ++ s.cfg.eol)) with owOpen := false }

/-- R190, R191 with a reading that is not-a-number (93_implementation_defined.md U9): the commands complete, and the temperature
token is the free value of the draw (log entry 12), whatever it is. The layout of the payload and the free operation byte are inferences
D19 and D18 mark as their own. -/
def Obligations.OneWireNanTokenIsFree : Prop :=
  ∀ (op : Byte) (p v : Nat) (s : State) (a : Answer), s.Flows → s.nextAnswer = some a → a.first = .nan →
    ∀ i : Instr, i = .owTemp op p v ∨ i = .owTempU op p v →
      exec i s = .next { s.popAnswer.replied
        (sent (pinPreamble s.cfg p) ++ [.called (.owReadTempC p v 9), .returned (.owReadTempC p v 9)] ++
         sent (dec v ++ [0x25#8] ++ Config.nanToken s.popAnswer.draws ++ s.cfg.eol)) with
          owOpen := false, draws := s.popAnswer.draws + 1 }

/-- R200 DHT.RD: two numbers are reported as humidity `:` temperature; if either reading is not-a-number the message
`Failed to read from DHT sensor!` takes their place (R234); the handle is released on both paths. -/
def Obligations.DhtRdReportsReadingsOrFailure : Prop :=
  ∀ (op : Byte) (p v : Nat) (s : State) (a : Answer), s.Flows → s.nextAnswer = some a →
    (∀ h t : ℝ, a.first.value = some h → a.second.value = some t →
      exec (.dhtRd op p v) s = .next { s.popAnswer.replied
        (sent (pinPreamble s.cfg p) ++ [.called (.dhtRead p v), .returned (.dhtRead p v)] ++
         sent (fmtReal s.cfg.eol h ++ [0x3A#8] ++ fmtReal s.cfg.eol t ++ s.cfg.eol)) with dhtOpen := false }) ∧
    (a.first = .nan ∨ a.second = .nan →
      exec (.dhtRd op p v) s = .next { s.popAnswer.replied
        (sent (pinPreamble s.cfg p) ++ [.called (.dhtRead p v), .returned (.dhtRead p v)] ++
         sent (msgDhtFail ++ s.cfg.eol)) with dhtOpen := false })

/-- The frame of every command, whatever the transport and the collaborators do: RAW, the field registers, CFG and the RX stream
are as before; the one-wire session is touched by OW.TEMP and OW.TEMP.U only, the DHT handle by DHT.RD only; nothing shown to
the outside is taken back (R26, R27, R29, R30, R72). -/
def Obligations.CommandFrame : Prop :=
  ∀ (i : Instr) (s t : State), exec i s = .next t →
    t.raw = s.raw ∧ t.cmd = s.cmd ∧ t.op = s.op ∧ t.pin = s.pin ∧ t.val = s.val ∧ t.cfg = s.cfg ∧ t.rx = s.rx ∧
    t.outside = s.outside ∧ t.answering = s.answering ∧ s.trace <+: t.trace ∧
    ((∀ op p v, i ≠ .owTemp op p v ∧ i ≠ .owTempU op p v) → t.owOpen = s.owOpen) ∧
    ((∀ op p v, i ≠ .dhtRd op p v) → t.dhtOpen = s.dhtOpen)

/-- R141, R220, R277: a command whose first call gets no answer has written its preamble, made that call, and waits in EXEC. -/
def Obligations.SilentCollaboratorLeavesPreamble : Prop :=
  ∀ (i : Instr) (c : Call) (s : State), firstCall s.cfg i = some c → s.Flows → s.nextAnswer = none →
    ∃ t k rest, exec i s = .next t ∧ t.ph = .exec ∧ t.todo = .await c k :: rest ∧ t.answers = s.answers ∧
      t.trace = s.trace ++ sent (if i.isSystem then idPreamble s.cfg
        else pinPreamble s.cfg i.pin) ++ [.called c]

/-- R65, R70 (b): a command whose preamble the transport does not take whole has written what was taken, made no call, and waits in
EXEC. -/
def Obligations.StalledPreambleMakesNoCall : Prop :=
  ∀ (i : Instr) (n : Nat) (bytes : List Byte) (s : State),
    bytes = (if i.isSystem then idPreamble s.cfg else pinPreamble s.cfg i.pin) →
    s.room = some n → s.resetIn = none → n < bytes.length →
    ∃ t, exec i s = .next t ∧ t.ph = .exec ∧ t.trace = s.trace ++ sent (bytes.take n) ∧ t.calls = s.calls ∧
      t.room = some 0

/-- R65: a transport that stops after any number of bytes and later takes the rest gets the same bytes in the same order, between
the same calls, as one that takes everything at once. -/
def Obligations.BackPressureLosesNothing : Prop :=
  ∀ (i : Instr) (s t u : State) (n : Nat), exec i { s with room := some n } = .next t →
    exec i { s with room := none } = .next u → (run t.todo { t with room := none }).trace = u.trace

/-! ### The response encoder (48_response_encoder.md) -/

/-- R215: the recursion of `dec`; its bytes are ASCII digits, without a leading zero unless the number is 0; `dec` is injective. The
clause that the numeral reads back as its number is the model's: it is about `parseDec` extended to strings of any length, where R86
has fields of 2 or 3 bytes. -/
def Obligations.DecIsShortestNumeral : Prop :=
  (∀ n : Nat, dec n = if n < 10 then [BitVec.ofNat 8 (0x30 + n)] else dec (n / 10) ++ [BitVec.ofNat 8 (0x30 + n % 10)]) ∧
  (∀ n : Nat, ∀ b ∈ dec n, isDigit b = true) ∧
  (∀ n : Nat, n ≠ 0 → (dec n).head? ≠ some 0x30#8) ∧
  (∀ n : Nat, parseDec (dec n) = n) ∧
  (∀ m n : Nat, dec m = dec n → m = n)

/-- R217, R281, R5: under the constraints of R5 readings are not empty and hold no `%`, no `:` and no EOL byte (how readings are held
to R5 is the model's, log entry 13); with a configuration that keeps replies parseable, number tokens are not empty and hold digits
only, none of them `%` or an EOL byte. -/
def Obligations.NumberTokensAreParseable : Prop :=
  (∀ c : Cfg, c.Valid → ∀ x : ℝ, fmtReal c.eol x ≠ [] ∧ ∀ b ∈ fmtReal c.eol x, b ≠ 0x25#8 ∧ b ≠ 0x3A#8 ∧ b ∉ c.eol) ∧
  (∀ c : Cfg, c.ParseSafe → ∀ n : Nat, dec n ≠ [] ∧ ∀ b ∈ dec n, isDigit b = true ∧ b ≠ 0x25#8 ∧ b ∉ c.eol)

/-! ### The whole machine (10_state.md, 20_memory.md, 60_exceptions.md, 70_reset_and_hazards.md) -/

/-- R11, R230: there is no fatal path: every step, and every command in every state, answers a next state. That R11's hang and `no
step` are next states that stay as they are is the model's reading (log entry 16). -/
def Obligations.NoFaultAndNoRefusal : Prop :=
  (∀ s : State, ∃ t, step s = .next t) ∧ (∀ (i : Instr) (s : State), ∃ t, exec i s = .next t)

/-- The invariant of Safety.lean is kept by every step. -/
def Obligations.InvariantIsKept : Prop :=
  ∀ s t : State, s.Inv → step s = .next t → t.Inv

/-- The invariant holds at reset (the reset values of PIN and VAL are the model's, log entry 1). -/
def Obligations.InvariantHoldsAtReset : Prop := State.reset.Inv

/-- R30, R283: after any step from a state of the invariant that ends in SCAN or COLLECT no handle is open. -/
def Obligations.NoHandleOutsideExec : Prop :=
  ∀ s t : State, s.Inv → step s = .next t → t.ph = .scan ∨ t.ph = .collect → t.owOpen = false ∧ t.dhtOpen = false

/-- R27: no step writes CFG. -/
def Obligations.ConfigurationIsImmutable : Prop :=
  ∀ s t : State, step s = .next t → t.cfg = s.cfg

/-- R29: the TX stream, and with it the order of bytes and calls, is append-only. -/
def Obligations.OutputIsAppendOnly : Prop :=
  ∀ s t : State, step s = .next t → s.trace <+: t.trace ∧ s.tx <+: t.tx

/-- R26, R129: at a step at which no reset comes, a step writes all four field registers from the record it closed, or none. -/
def Obligations.FieldsAreWrittenTogether : Prop :=
  ∀ s t : State, step s = .next t → s.resetIn = none →
    (∀ e rest, s.outside = e :: rest → e ≠ .reset ∧ ∀ n, e ≠ .resetIn n) →
    t.fields = s.fields ∨ (s.ph = .collect ∧ fieldsOf t.raw = some t.fields)

/-- R63, R270: in EXEC no RX event is consumed. -/
def Obligations.NothingIsConsumedInExec : Prop :=
  ∀ s t : State, s.ph = .exec → step s = .next t →
    t.rx = s.rx ∨ (∃ es rest, s.outside = .deliver es :: rest ∧ t.rx = s.rx ++ es)

/-- R277, R65: a block stopped at a collaborator that never answers, or at a transport that takes no more bytes, stays as it is for
ever. -/
def Obligations.HangIsForEver : Prop :=
  ∀ (s : State) (n : Nat), s.Hung → steps n s = .next s

/-- R51: the answer to the outstanding call, when it comes, ends the wait: the step is the return of the call, its payload, and then
the rest of the cycle, whatever it is. Where nothing is left to do the block scans again (R145); where bytes are left (ANA.WR,
MODE.IN, MODE.PU, MODE.OUT) they are written first; where a call is left (DIG.WR, its read-back) it is made, and waited for. -/
def Obligations.AnswerEndsTheWait : Prop :=
  ∀ (s : State) (c : Call) (k : After) (more : List Micro) (a : Answer) (rest : List Outside),
    s.ph = .exec → s.todo = .await c k :: more → s.nextAnswer = none → s.Flows → s.outside = .answer a :: rest →
    step s = .next (run more { s with
      outside := rest, trace := s.trace ++ [.returned c] ++ sent (s.payload k a),
      owOpen := s.owOpen && !c.usesOneWire, dhtOpen := s.dhtOpen && !c.usesDht,
      draws := if k.drawsToken a then s.draws + 1 else s.draws }) ∧
    (more = [] → ∃ t, step s = .next t ∧ t.ph = .scan ∧ t.todo = [] ∧ t.outside = rest ∧ t.answers = [] ∧
      t.trace = s.trace ++ [.returned c] ++ sent (s.payload k a)) ∧
    (∀ bytes, more = [.tx bytes] → ∃ t, step s = .next t ∧ t.ph = .scan ∧ t.todo = [] ∧ t.outside = rest ∧ t.answers = [] ∧
      t.trace = s.trace ++ [.returned c] ++ sent (s.payload k a) ++ sent bytes) ∧
    (∀ d l less, more = .call d l :: less → ∃ t, step s = .next t ∧ t.ph = .exec ∧ t.todo = .await d l :: less ∧
      t.outside = rest ∧ t.answers = [] ∧ t.trace = s.trace ++ [.returned c] ++ sent (s.payload k a) ++ [.called d])

/-- R261, R263: the state after reset: SCAN, RAW empty, no handle open, nothing written, CFG within R5's
constraints (how it is held to them is the model's, log entry 3). -/
def Obligations.ResetState : Prop :=
  State.reset.ph = .scan ∧ State.reset.raw = [] ∧ State.reset.owOpen = false ∧ State.reset.dhtOpen = false ∧
  State.reset.trace = [] ∧ State.reset.cfg.Valid

/-- R260, R262, R265: a reset at any time, in a frame or in a dispatch cycle, abandons it without writing anything: what was written
stays written and no call is made. That the step does nothing else is log entry 7; that RX is as before is R35; that answers, room and
a coming reset are as before is the model's (log entry 17). -/
def Obligations.ResetAtAnyTime : Prop :=
  ∀ (s : State) (rest : List Outside), s.outside = .reset :: rest →
    ∃ t, step s = .next t ∧ t.ph = .scan ∧ t.raw = [] ∧ t.todo = [] ∧ t.owOpen = false ∧ t.dhtOpen = false ∧
      t.trace = s.trace ∧ t.cfg = s.cfg ∧ t.rx = s.rx ∧ t.answers = s.answers ∧ t.answering = s.answering ∧
      t.room = s.room ∧ t.resetIn = s.resetIn ∧ t.outside = rest

/-- R272: after an unrecognised command or operation (R143, R144) the block scans again, the TX stream ends in its preamble with no
line break, and the beginning of the next item, whatever record it comes from, stands right behind it: the preamble of the next
record, recognised or not, or its whole diagnostic line (layout D10). SYS.VER, for one, run next adds its whole reply there. -/
def Obligations.NextReplyJoinsDanglingPreamble : Prop :=
  ∀ (s t : State) (f : Fields), s.Flows → unrecognized f.cmd f.op = true → dispatch (s.writeFields f) = .next t →
    t.ph = .scan ∧ t.tx = s.tx ++ (if f.cmd = 0x7A#8 then idPreamble s.cfg else pinPreamble s.cfg f.pin) ∧
    (∀ (raw : List Byte) (u : State), rxClose { t with raw := raw } = .next u →
      ∃ more, u.tx = s.tx ++ (if f.cmd = 0x7A#8 then idPreamble s.cfg else pinPreamble s.cfg f.pin) ++ itemStart s.cfg raw ++ more) ∧
    (∀ p v : Nat, ∃ u, exec (.sysVer p v) t = .next u ∧
      u.tx = s.tx ++ (if f.cmd = 0x7A#8 then idPreamble s.cfg else pinPreamble s.cfg f.pin) ++
        (idPreamble s.cfg ++ labelVersion ++ [0x25#8] ++ s.cfg.fwVersion ++ s.cfg.eol))

/-- R260, R262: a reset may fall due after any number `n` of events (a byte, the making of a call, its return) that a step shows, the
point after a whole preamble and the point between DIG.WR's write and its read-back among them: what the step has shown is exactly
its first `n` events, and the block is in the state of R35; CFG and the RX stream are as after the whole step. -/
def Obligations.ResetStrikesAfterAnyEvent : Prop :=
  ∀ (s t u : State) (n : Nat), s.outside = [] → step { s with resetIn := none } = .next t →
    s.trace.length + n ≤ t.trace.length → step { s with resetIn := some n } = .next u →
    u.trace = t.trace.take (s.trace.length + n) ∧ u.ph = .scan ∧ u.raw = [] ∧ u.todo = [] ∧ u.owOpen = false ∧
    u.dhtOpen = false ∧ u.resetIn = none ∧ u.cfg = t.cfg ∧ u.rx = t.rx
end

