-- ==== Sys2Proof/Laws/State.lean ====
section
/-! SUPPORT. Sys2Proof/Laws/State.lean: what each named update of the state leaves in each field, one lemma a field, so that no
proof unfolds a record update. -/

namespace Sys2Proof.Machine

variable (s : State)

/-! ### State.emit -/

@[simp] theorem State.emit_ph (bs : List Byte) : (s.emit bs).ph = s.ph := rfl
@[simp] theorem State.emit_raw (bs : List Byte) : (s.emit bs).raw = s.raw := rfl
@[simp] theorem State.emit_cmd (bs : List Byte) : (s.emit bs).cmd = s.cmd := rfl
@[simp] theorem State.emit_op (bs : List Byte) : (s.emit bs).op = s.op := rfl
@[simp] theorem State.emit_pin (bs : List Byte) : (s.emit bs).pin = s.pin := rfl
@[simp] theorem State.emit_val (bs : List Byte) : (s.emit bs).val = s.val := rfl
@[simp] theorem State.emit_owOpen (bs : List Byte) : (s.emit bs).owOpen = s.owOpen := rfl
@[simp] theorem State.emit_dhtOpen (bs : List Byte) : (s.emit bs).dhtOpen = s.dhtOpen := rfl
@[simp] theorem State.emit_todo (bs : List Byte) : (s.emit bs).todo = s.todo := rfl
@[simp] theorem State.emit_trace (bs : List Byte) : (s.emit bs).trace = s.trace ++ sent (s.taken bs) := rfl
@[simp] theorem State.emit_cfg (bs : List Byte) : (s.emit bs).cfg = s.cfg := rfl
@[simp] theorem State.emit_rx (bs : List Byte) : (s.emit bs).rx = s.rx := rfl
@[simp] theorem State.emit_answers (bs : List Byte) : (s.emit bs).answers = s.answers := rfl
@[simp] theorem State.emit_answering (bs : List Byte) : (s.emit bs).answering = s.answering := rfl
@[simp] theorem State.emit_room (bs : List Byte) : (s.emit bs).room = s.room.map (· - (s.taken bs).length) := rfl
@[simp] theorem State.emit_resetIn (bs : List Byte) : (s.emit bs).resetIn = s.resetIn.map (· - (s.taken bs).length) := rfl
@[simp] theorem State.emit_outside (bs : List Byte) : (s.emit bs).outside = s.outside := rfl
@[simp] theorem State.emit_draws (bs : List Byte) : (s.emit bs).draws = s.draws := rfl

/-! ### State.popAnswer -/

@[simp] theorem State.popAnswer_ph : (s.popAnswer).ph = s.ph := rfl
@[simp] theorem State.popAnswer_raw : (s.popAnswer).raw = s.raw := rfl
@[simp] theorem State.popAnswer_cmd : (s.popAnswer).cmd = s.cmd := rfl
@[simp] theorem State.popAnswer_op : (s.popAnswer).op = s.op := rfl
@[simp] theorem State.popAnswer_pin : (s.popAnswer).pin = s.pin := rfl
@[simp] theorem State.popAnswer_val : (s.popAnswer).val = s.val := rfl
@[simp] theorem State.popAnswer_owOpen : (s.popAnswer).owOpen = s.owOpen := rfl
@[simp] theorem State.popAnswer_dhtOpen : (s.popAnswer).dhtOpen = s.dhtOpen := rfl
@[simp] theorem State.popAnswer_todo : (s.popAnswer).todo = s.todo := rfl
@[simp] theorem State.popAnswer_trace : (s.popAnswer).trace = s.trace := rfl
@[simp] theorem State.popAnswer_cfg : (s.popAnswer).cfg = s.cfg := rfl
@[simp] theorem State.popAnswer_rx : (s.popAnswer).rx = s.rx := rfl
@[simp] theorem State.popAnswer_answers : (s.popAnswer).answers = s.answers.tail := rfl
@[simp] theorem State.popAnswer_answering : (s.popAnswer).answering = s.answering := rfl
@[simp] theorem State.popAnswer_room : (s.popAnswer).room = s.room := rfl
@[simp] theorem State.popAnswer_resetIn : (s.popAnswer).resetIn = s.resetIn := rfl
@[simp] theorem State.popAnswer_outside : (s.popAnswer).outside = s.outside := rfl
@[simp] theorem State.popAnswer_draws : (s.popAnswer).draws = if s.answers.isEmpty then s.draws + 1 else s.draws := rfl

/-! ### State.issue -/

@[simp] theorem State.issue_ph (c : Call) : (s.issue c).ph = s.ph := rfl
@[simp] theorem State.issue_raw (c : Call) : (s.issue c).raw = s.raw := rfl
@[simp] theorem State.issue_cmd (c : Call) : (s.issue c).cmd = s.cmd := rfl
@[simp] theorem State.issue_op (c : Call) : (s.issue c).op = s.op := rfl
@[simp] theorem State.issue_pin (c : Call) : (s.issue c).pin = s.pin := rfl
@[simp] theorem State.issue_val (c : Call) : (s.issue c).val = s.val := rfl
@[simp] theorem State.issue_owOpen (c : Call) : (s.issue c).owOpen = (s.owOpen || c.usesOneWire) := rfl
@[simp] theorem State.issue_dhtOpen (c : Call) : (s.issue c).dhtOpen = (s.dhtOpen || c.usesDht) := rfl
@[simp] theorem State.issue_todo (c : Call) : (s.issue c).todo = s.todo := rfl
@[simp] theorem State.issue_trace (c : Call) : (s.issue c).trace = s.trace ++ [.called c] := rfl
@[simp] theorem State.issue_cfg (c : Call) : (s.issue c).cfg = s.cfg := rfl
@[simp] theorem State.issue_rx (c : Call) : (s.issue c).rx = s.rx := rfl
@[simp] theorem State.issue_answers (c : Call) : (s.issue c).answers = s.answers := rfl
@[simp] theorem State.issue_answering (c : Call) : (s.issue c).answering = s.answering := rfl
@[simp] theorem State.issue_room (c : Call) : (s.issue c).room = s.room := rfl
@[simp] theorem State.issue_resetIn (c : Call) : (s.issue c).resetIn = s.resetIn.map (· - 1) := rfl
@[simp] theorem State.issue_outside (c : Call) : (s.issue c).outside = s.outside := rfl
@[simp] theorem State.issue_draws (c : Call) : (s.issue c).draws = s.draws := rfl

/-! ### State.settle -/

@[simp] theorem State.settle_ph (c : Call) : (s.settle c).ph = s.ph := rfl
@[simp] theorem State.settle_raw (c : Call) : (s.settle c).raw = s.raw := rfl
@[simp] theorem State.settle_cmd (c : Call) : (s.settle c).cmd = s.cmd := rfl
@[simp] theorem State.settle_op (c : Call) : (s.settle c).op = s.op := rfl
@[simp] theorem State.settle_pin (c : Call) : (s.settle c).pin = s.pin := rfl
@[simp] theorem State.settle_val (c : Call) : (s.settle c).val = s.val := rfl
@[simp] theorem State.settle_owOpen (c : Call) : (s.settle c).owOpen = (s.owOpen && !c.usesOneWire) := rfl
@[simp] theorem State.settle_dhtOpen (c : Call) : (s.settle c).dhtOpen = (s.dhtOpen && !c.usesDht) := rfl
@[simp] theorem State.settle_todo (c : Call) : (s.settle c).todo = s.todo := rfl
@[simp] theorem State.settle_trace (c : Call) : (s.settle c).trace = s.trace ++ [.returned c] := rfl
@[simp] theorem State.settle_cfg (c : Call) : (s.settle c).cfg = s.cfg := rfl
@[simp] theorem State.settle_rx (c : Call) : (s.settle c).rx = s.rx := rfl
@[simp] theorem State.settle_answers (c : Call) : (s.settle c).answers = s.answers.tail := rfl
@[simp] theorem State.settle_answering (c : Call) : (s.settle c).answering = s.answering := rfl
@[simp] theorem State.settle_room (c : Call) : (s.settle c).room = s.room := rfl
@[simp] theorem State.settle_resetIn (c : Call) : (s.settle c).resetIn = s.resetIn.map (· - 1) := rfl
@[simp] theorem State.settle_outside (c : Call) : (s.settle c).outside = s.outside := rfl
@[simp] theorem State.settle_draws (c : Call) : (s.settle c).draws = if s.answers.isEmpty then s.draws + 1 else s.draws := rfl

/-! ### State.noteDraw -/

@[simp] theorem State.noteDraw_ph (k : After) (a : Answer) : (s.noteDraw k a).ph = s.ph := rfl
@[simp] theorem State.noteDraw_raw (k : After) (a : Answer) : (s.noteDraw k a).raw = s.raw := rfl
@[simp] theorem State.noteDraw_cmd (k : After) (a : Answer) : (s.noteDraw k a).cmd = s.cmd := rfl
@[simp] theorem State.noteDraw_op (k : After) (a : Answer) : (s.noteDraw k a).op = s.op := rfl
@[simp] theorem State.noteDraw_pin (k : After) (a : Answer) : (s.noteDraw k a).pin = s.pin := rfl
@[simp] theorem State.noteDraw_val (k : After) (a : Answer) : (s.noteDraw k a).val = s.val := rfl
@[simp] theorem State.noteDraw_owOpen (k : After) (a : Answer) : (s.noteDraw k a).owOpen = s.owOpen := rfl
@[simp] theorem State.noteDraw_dhtOpen (k : After) (a : Answer) : (s.noteDraw k a).dhtOpen = s.dhtOpen := rfl
@[simp] theorem State.noteDraw_todo (k : After) (a : Answer) : (s.noteDraw k a).todo = s.todo := rfl
@[simp] theorem State.noteDraw_trace (k : After) (a : Answer) : (s.noteDraw k a).trace = s.trace := rfl
@[simp] theorem State.noteDraw_cfg (k : After) (a : Answer) : (s.noteDraw k a).cfg = s.cfg := rfl
@[simp] theorem State.noteDraw_rx (k : After) (a : Answer) : (s.noteDraw k a).rx = s.rx := rfl
@[simp] theorem State.noteDraw_answers (k : After) (a : Answer) : (s.noteDraw k a).answers = s.answers := rfl
@[simp] theorem State.noteDraw_answering (k : After) (a : Answer) : (s.noteDraw k a).answering = s.answering := rfl
@[simp] theorem State.noteDraw_room (k : After) (a : Answer) : (s.noteDraw k a).room = s.room := rfl
@[simp] theorem State.noteDraw_resetIn (k : After) (a : Answer) : (s.noteDraw k a).resetIn = s.resetIn := rfl
@[simp] theorem State.noteDraw_outside (k : After) (a : Answer) : (s.noteDraw k a).outside = s.outside := rfl
@[simp] theorem State.noteDraw_draws (k : After) (a : Answer) : (s.noteDraw k a).draws = if k.drawsToken a then s.draws + 1 else s.draws := rfl

/-! ### State.endCycle -/

@[simp] theorem State.endCycle_ph : (s.endCycle).ph = .scan := rfl
@[simp] theorem State.endCycle_raw : (s.endCycle).raw = s.raw := rfl
@[simp] theorem State.endCycle_cmd : (s.endCycle).cmd = s.cmd := rfl
@[simp] theorem State.endCycle_op : (s.endCycle).op = s.op := rfl
@[simp] theorem State.endCycle_pin : (s.endCycle).pin = s.pin := rfl
@[simp] theorem State.endCycle_val : (s.endCycle).val = s.val := rfl
@[simp] theorem State.endCycle_owOpen : (s.endCycle).owOpen = s.owOpen := rfl
@[simp] theorem State.endCycle_dhtOpen : (s.endCycle).dhtOpen = s.dhtOpen := rfl
@[simp] theorem State.endCycle_todo : (s.endCycle).todo = [] := rfl
@[simp] theorem State.endCycle_trace : (s.endCycle).trace = s.trace := rfl
@[simp] theorem State.endCycle_cfg : (s.endCycle).cfg = s.cfg := rfl
@[simp] theorem State.endCycle_rx : (s.endCycle).rx = s.rx := rfl
@[simp] theorem State.endCycle_answers : (s.endCycle).answers = s.answers := rfl
@[simp] theorem State.endCycle_answering : (s.endCycle).answering = s.answering := rfl
@[simp] theorem State.endCycle_room : (s.endCycle).room = s.room := rfl
@[simp] theorem State.endCycle_resetIn : (s.endCycle).resetIn = s.resetIn := rfl
@[simp] theorem State.endCycle_outside : (s.endCycle).outside = s.outside := rfl
@[simp] theorem State.endCycle_draws : (s.endCycle).draws = s.draws := rfl

/-! ### State.writeFields -/

@[simp] theorem State.writeFields_ph (f : Fields) : (s.writeFields f).ph = s.ph := rfl
@[simp] theorem State.writeFields_raw (f : Fields) : (s.writeFields f).raw = s.raw := rfl
@[simp] theorem State.writeFields_cmd (f : Fields) : (s.writeFields f).cmd = f.cmd := rfl
@[simp] theorem State.writeFields_op (f : Fields) : (s.writeFields f).op = f.op := rfl
@[simp] theorem State.writeFields_pin (f : Fields) : (s.writeFields f).pin = f.pin := rfl
@[simp] theorem State.writeFields_val (f : Fields) : (s.writeFields f).val = f.val := rfl
@[simp] theorem State.writeFields_owOpen (f : Fields) : (s.writeFields f).owOpen = s.owOpen := rfl
@[simp] theorem State.writeFields_dhtOpen (f : Fields) : (s.writeFields f).dhtOpen = s.dhtOpen := rfl
@[simp] theorem State.writeFields_todo (f : Fields) : (s.writeFields f).todo = s.todo := rfl
@[simp] theorem State.writeFields_trace (f : Fields) : (s.writeFields f).trace = s.trace := rfl
@[simp] theorem State.writeFields_cfg (f : Fields) : (s.writeFields f).cfg = s.cfg := rfl
@[simp] theorem State.writeFields_rx (f : Fields) : (s.writeFields f).rx = s.rx := rfl
@[simp] theorem State.writeFields_answers (f : Fields) : (s.writeFields f).answers = s.answers := rfl
@[simp] theorem State.writeFields_answering (f : Fields) : (s.writeFields f).answering = s.answering := rfl
@[simp] theorem State.writeFields_room (f : Fields) : (s.writeFields f).room = s.room := rfl
@[simp] theorem State.writeFields_resetIn (f : Fields) : (s.writeFields f).resetIn = s.resetIn := rfl
@[simp] theorem State.writeFields_outside (f : Fields) : (s.writeFields f).outside = s.outside := rfl
@[simp] theorem State.writeFields_draws (f : Fields) : (s.writeFields f).draws = s.draws := rfl

/-! ### State.resetBlock -/

@[simp] theorem State.resetBlock_ph : (s.resetBlock).ph = .scan := rfl
@[simp] theorem State.resetBlock_raw : (s.resetBlock).raw = [] := rfl
@[simp] theorem State.resetBlock_cmd : (s.resetBlock).cmd = 0 := rfl
@[simp] theorem State.resetBlock_op : (s.resetBlock).op = 0 := rfl
@[simp] theorem State.resetBlock_pin : (s.resetBlock).pin = 0 := rfl
@[simp] theorem State.resetBlock_val : (s.resetBlock).val = 0 := rfl
@[simp] theorem State.resetBlock_owOpen : (s.resetBlock).owOpen = false := rfl
@[simp] theorem State.resetBlock_dhtOpen : (s.resetBlock).dhtOpen = false := rfl
@[simp] theorem State.resetBlock_todo : (s.resetBlock).todo = [] := rfl
@[simp] theorem State.resetBlock_trace : (s.resetBlock).trace = s.trace := rfl
@[simp] theorem State.resetBlock_cfg : (s.resetBlock).cfg = s.cfg := rfl
@[simp] theorem State.resetBlock_rx : (s.resetBlock).rx = s.rx := rfl
@[simp] theorem State.resetBlock_answers : (s.resetBlock).answers = s.answers := rfl
@[simp] theorem State.resetBlock_answering : (s.resetBlock).answering = s.answering := rfl
@[simp] theorem State.resetBlock_room : (s.resetBlock).room = s.room := rfl
@[simp] theorem State.resetBlock_resetIn : (s.resetBlock).resetIn = s.resetIn := rfl
@[simp] theorem State.resetBlock_outside : (s.resetBlock).outside = s.outside := rfl
@[simp] theorem State.resetBlock_draws : (s.resetBlock).draws = s.draws := rfl

/-! ### State.strike -/

@[simp] theorem State.strike_trace : s.strike.trace = s.trace := by
  unfold State.strike; split <;> rfl
@[simp] theorem State.strike_cfg : s.strike.cfg = s.cfg := by
  unfold State.strike; split <;> rfl
@[simp] theorem State.strike_rx : s.strike.rx = s.rx := by
  unfold State.strike; split <;> rfl
@[simp] theorem State.strike_answers : s.strike.answers = s.answers := by
  unfold State.strike; split <;> rfl
@[simp] theorem State.strike_answering : s.strike.answering = s.answering := by
  unfold State.strike; split <;> rfl
@[simp] theorem State.strike_room : s.strike.room = s.room := by
  unfold State.strike; split <;> rfl
@[simp] theorem State.strike_outside : s.strike.outside = s.outside := by
  unfold State.strike; split <;> rfl
@[simp] theorem State.strike_draws : s.strike.draws = s.draws := by
  unfold State.strike; split <;> rfl

/-- What a reset that falls due does: the block's reset, or nothing where none falls due; none is due afterwards. -/
theorem State.strike_cases :
    (s.struck = true ∧ s.strike = { s.resetBlock with resetIn := none }) ∨ (s.struck = false ∧ s.strike = s) := by
  cases h : s.struck <;> simp [State.strike, h]

@[simp] theorem State.strike_struck : s.strike.struck = false := by
  rcases s.strike_cases with ⟨-, h⟩ | ⟨h, h'⟩
  · rw [h]; rfl
  · rw [h', h]

end Sys2Proof.Machine
end

