-- ==== Sys2Proof/Laws/Ops.lean ====
section
/-! SUPPORT. Sys2Proof/Laws/Ops.lean: for each shared operation what it can do: Tx (R65), a call (R51), a dispatch cycle (R141),
an action of the sequencer (R120) and a step. -/

namespace Sys2Proof.Machine

/-! ### Readings -/

/-- A reading with a value is not not-a-number. -/
theorem Reading.isNaN_of_value {r : Reading} {x : ℝ} (h : r.value = some x) : r.isNaN = false := by
  cases r with
  | nan => simp [Reading.value] at h
  | rational q => rfl
  | real k => rfl

/-! ### Tx -/

theorem State.taken_append_unsent (s : State) (bs : List Byte) : s.taken bs ++ s.unsent bs = bs := by
  cases h : s.limit <;> simp [taken, unsent, h]

theorem State.limit_of_flows {s : State} (h : s.Flows) : s.limit = none := by
  simp [limit, h.1, h.2]

theorem State.struck_of_flows {s : State} (h : s.Flows) : s.struck = false := by
  simp [struck, h.2]

/-- The number of bytes that can be written depends on `room` and `resetIn` alone. -/
theorem State.limit_congr {s t : State} (h1 : t.room = s.room) (h2 : t.resetIn = s.resetIn) : t.limit = s.limit := by
  simp [limit, h1, h2]

theorem State.taken_of_flows {s : State} (h : s.Flows) (bs : List Byte) : s.taken bs = bs := by
  simp [taken, limit_of_flows h]

theorem State.unsent_of_flows {s : State} (h : s.Flows) (bs : List Byte) : s.unsent bs = [] := by
  simp [unsent, limit_of_flows h]

theorem sent_append (a b : List Byte) : sent (a ++ b) = sent a ++ sent b := by simp [sent]

/-- Where everything flows, Tx writes all bytes and the cycle goes on. -/
theorem State.sendThen_of_flows {s : State} (h : s.Flows) (bs : List Byte) (rest : List Micro) (go : State → State) :
    s.sendThen bs rest go = go { s with trace := s.trace ++ sent bs } := by
  simp [sendThen, unsent_of_flows h, emit, taken_of_flows h, h.1, h.2]

/-- What Tx can do: write everything and go on, or write a part, use up the room or the events before a reset, and stop. -/
theorem State.sendThen_cases (s : State) (bs : List Byte) (rest : List Micro) (go : State → State) :
    (s.unsent bs = [] ∧ s.sendThen bs rest go = go (s.emit bs)) ∨
    (∃ b more, s.unsent bs = b :: more ∧ ((s.emit bs).room = some 0 ∨ (s.emit bs).struck = true) ∧
      s.sendThen bs rest go = { s.emit bs with todo := .tx (b :: more) :: rest }) := by
  cases h : s.unsent bs with
  | nil => exact .inl ⟨rfl, by simp [sendThen, h]⟩
  | cons b more =>
    refine .inr ⟨b, more, rfl, ?_, by simp [sendThen, h]⟩
    cases hl : s.limit with
    | none => simp [unsent, hl] at h
    | some n =>
      have hn : n < bs.length := by
        by_contra hle
        simp [unsent, hl, List.drop_eq_nil_of_le (Nat.le_of_not_lt hle)] at h
      have ht : (s.taken bs).length = n := by simp [taken, hl]; omega
      simp only [emit_room, struck, emit_resetIn, ht]
      unfold limit at hl
      cases hm : s.room <;> cases hk : s.resetIn <;> simp [hm, hk] at hl ⊢ <;> omega

/-! ### Calls -/

/-- A call that has an answer at hand returns, its payload is written, the cycle goes on. -/
theorem State.awaitThen_of_answer {s : State} {a : Answer} (hs : s.struck = false) (h : s.nextAnswer = some a) (c : Call) (k : After)
    (rest : List Micro) (go : State → State) :
    s.awaitThen c k rest go = ((s.settle c).noteDraw k a).sendThen ((s.settle c).payload k a) rest go := by
  simp [awaitThen, hs, h]

/-- A call that a reset overtakes is left outstanding. -/
theorem State.awaitThen_of_struck {s : State} (h : s.struck = true) (c : Call) (k : After)
    (rest : List Micro) (go : State → State) :
    s.awaitThen c k rest go = { s with todo := .await c k :: rest } := by
  simp [awaitThen, h]

/-- What the wait for a call can do: stay, or record the return, write the payload and go on. -/
theorem State.awaitThen_cases (s : State) (c : Call) (k : After) (rest : List Micro) (go : State → State) :
    ((s.struck = true ∨ s.nextAnswer = none) ∧ s.awaitThen c k rest go = { s with todo := .await c k :: rest }) ∨
    (∃ a, s.struck = false ∧ s.nextAnswer = some a ∧
      s.awaitThen c k rest go = ((s.settle c).noteDraw k a).sendThen ((s.settle c).payload k a) rest go) := by
  cases hs : s.struck <;> cases ha : s.nextAnswer <;> simp [awaitThen, hs, ha]

/-- What the making of a call can do: be overtaken by a reset, or make the call and wait for it. -/
theorem State.callThen_cases (s : State) (c : Call) (k : After) (rest : List Micro) (go : State → State) :
    (s.struck = true ∧ s.callThen c k rest go = { s with todo := .call c k :: rest }) ∨
    (s.struck = false ∧ s.callThen c k rest go = (s.issue c).awaitThen c k rest go) := by
  cases hs : s.struck <;> simp [callThen, hs]

/-- A call without an answer at hand is left outstanding. -/
theorem State.awaitThen_of_silence {s : State} (h : s.nextAnswer = none) (c : Call) (k : After)
    (rest : List Micro) (go : State → State) :
    s.awaitThen c k rest go = { s with todo := .await c k :: rest } := by
  simp [awaitThen, h]

/-- Whether an answer is at hand depends on `answers`, `answering` and `draws` alone. -/
theorem State.nextAnswer_congr {s t : State} (h1 : t.answers = s.answers) (h2 : t.answering = s.answering)
    (h3 : t.draws = s.draws) : t.nextAnswer = s.nextAnswer := by
  simp [nextAnswer, h1, h2, h3]

/-! ### The dispatch cycle -/

/-- Whatever the updates of a cycle leave alone, a whole cycle leaves alone. -/
theorem run_keeps {α : Type} (f : State → α)
    (hemit : ∀ bs s, f (State.emit bs s) = f s) (hissue : ∀ c s, f (State.issue c s) = f s)
    (hsettle : ∀ c s, f (State.settle c s) = f s) (hnote : ∀ k a s, f (State.noteDraw k a s) = f s)
    (hend : ∀ s, f (State.endCycle s) = f s) (htodo : ∀ (s : State) ms, f { s with todo := ms } = f s) :
    ∀ (ms : List Micro) (s : State), f (run ms s) = f s := by
  have hsend : ∀ bs rest (go : State → State), (∀ s, f (go s) = f s) →
      ∀ s : State, f (s.sendThen bs rest go) = f s := by
    intro bs rest go hgo s
    rcases s.sendThen_cases bs rest go with ⟨-, h⟩ | ⟨b, more, -, -, h⟩
    · rw [h, hgo, hemit]
    · rw [h, htodo, hemit]
  have hawait : ∀ c k rest (go : State → State), (∀ s, f (go s) = f s) →
      ∀ s : State, f (s.awaitThen c k rest go) = f s := by
    intro c k rest go hgo s
    rcases s.awaitThen_cases c k rest go with ⟨-, h⟩ | ⟨a, -, -, h⟩
    · rw [h, htodo]
    · rw [h, hsend _ _ _ hgo, hnote, hsettle]
  intro ms
  induction ms with
  | nil => exact fun s => hend s
  | cons m rest ih =>
    intro s
    cases m with
    | tx bs => exact hsend _ _ _ ih s
    | call c k =>
      show f (s.callThen c k rest (run rest)) = f s
      rcases s.callThen_cases c k rest (run rest) with ⟨-, h⟩ | ⟨-, h⟩
      · rw [h, htodo]
      · rw [h, hawait _ _ _ _ ih, hissue]
    | await c k => exact hawait c k rest _ ih s

@[simp] theorem run_keeps_raw (ms : List Micro) (s : State) : (run ms s).raw = s.raw :=
  run_keeps State.raw (by simp) (by simp) (by simp) (by simp) (by simp) (by simp) ms s
@[simp] theorem run_keeps_cmd (ms : List Micro) (s : State) : (run ms s).cmd = s.cmd :=
  run_keeps State.cmd (by simp) (by simp) (by simp) (by simp) (by simp) (by simp) ms s
@[simp] theorem run_keeps_op (ms : List Micro) (s : State) : (run ms s).op = s.op :=
  run_keeps State.op (by simp) (by simp) (by simp) (by simp) (by simp) (by simp) ms s
@[simp] theorem run_keeps_pin (ms : List Micro) (s : State) : (run ms s).pin = s.pin :=
  run_keeps State.pin (by simp) (by simp) (by simp) (by simp) (by simp) (by simp) ms s
@[simp] theorem run_keeps_val (ms : List Micro) (s : State) : (run ms s).val = s.val :=
  run_keeps State.val (by simp) (by simp) (by simp) (by simp) (by simp) (by simp) ms s
@[simp] theorem run_keeps_cfg (ms : List Micro) (s : State) : (run ms s).cfg = s.cfg :=
  run_keeps State.cfg (by simp) (by simp) (by simp) (by simp) (by simp) (by simp) ms s
@[simp] theorem run_keeps_rx (ms : List Micro) (s : State) : (run ms s).rx = s.rx :=
  run_keeps State.rx (by simp) (by simp) (by simp) (by simp) (by simp) (by simp) ms s
@[simp] theorem run_keeps_answering (ms : List Micro) (s : State) : (run ms s).answering = s.answering :=
  run_keeps State.answering (by simp) (by simp) (by simp) (by simp) (by simp) (by simp) ms s
@[simp] theorem run_keeps_outside (ms : List Micro) (s : State) : (run ms s).outside = s.outside :=
  run_keeps State.outside (by simp) (by simp) (by simp) (by simp) (by simp) (by simp) ms s

/-- A relation to the starting state that the updates of a cycle keep holds of the whole cycle. -/
theorem run_reaches (P : State → Prop)
    (hemit : ∀ bs s, P s → P (State.emit bs s)) (hissue : ∀ c s, P s → P (State.issue c s))
    (hsettle : ∀ c s, P s → P (State.settle c s)) (hnote : ∀ k a s, P s → P (State.noteDraw k a s))
    (hend : ∀ s, P s → P (State.endCycle s)) (htodo : ∀ (s : State) ms, P s → P { s with todo := ms }) :
    ∀ (ms : List Micro) (s : State), P s → P (run ms s) := by
  have hsend : ∀ bs rest (go : State → State), (∀ s, P s → P (go s)) →
      ∀ s : State, P s → P (s.sendThen bs rest go) := by
    intro bs rest go hgo s hs
    rcases s.sendThen_cases bs rest go with ⟨-, h⟩ | ⟨b, more, -, -, h⟩
    · exact h ▸ hgo _ (hemit _ _ hs)
    · exact h ▸ htodo _ _ (hemit _ _ hs)
  have hawait : ∀ c k rest (go : State → State), (∀ s, P s → P (go s)) →
      ∀ s : State, P s → P (s.awaitThen c k rest go) := by
    intro c k rest go hgo s hs
    rcases s.awaitThen_cases c k rest go with ⟨-, h⟩ | ⟨a, -, -, h⟩
    · exact h ▸ htodo _ _ hs
    · exact h ▸ hsend _ _ _ hgo _ (hnote _ _ _ (hsettle _ _ hs))
  intro ms
  induction ms with
  | nil => exact fun s hs => hend s hs
  | cons m rest ih =>
    intro s hs
    cases m with
    | tx bs => exact hsend _ _ _ ih s hs
    | call c k =>
      show P (s.callThen c k rest (run rest))
      rcases s.callThen_cases c k rest (run rest) with ⟨-, h⟩ | ⟨-, h⟩
      · exact h ▸ htodo _ _ hs
      · exact h ▸ hawait c k rest _ ih _ (hissue c s hs)
    | await c k => exact hawait c k rest _ ih s hs

/-- Where no reset is coming at the start of a cycle, none is at its end. -/
theorem run_resetIn_none (ms : List Micro) {s : State} (h : s.resetIn = none) : (run ms s).resetIn = none :=
  run_reaches (fun t => t.resetIn = none) (by simp_all) (by simp_all) (by simp_all) (by simp_all) (by simp_all) (by simp_all) ms s h

/-! ### A cycle line by line, everything flowing -/

theorem run_tx_of_flows {s : State} (h : s.Flows) (bs : List Byte) (rest : List Micro) :
    run (.tx bs :: rest) s = run rest { s with trace := s.trace ++ sent bs } :=
  State.sendThen_of_flows h bs rest (run rest)

/-- A call that has an answer at hand: made, returned, its handle released, its payload written. -/
theorem run_call_of_answer {s : State} {a : Answer} (h : s.Flows) (ha : s.nextAnswer = some a) (c : Call) (k : After)
    (rest : List Micro) :
    run (.call c k :: rest) s = run rest { s.popAnswer with
      trace := s.trace ++ [.called c, .returned c] ++ sent (s.popAnswer.payload k a),
      owOpen := s.owOpen && !c.usesOneWire, dhtOpen := s.dhtOpen && !c.usesDht,
      draws := if k.drawsToken a then s.popAnswer.draws + 1 else s.popAnswer.draws } := by
  have ha' : (s.issue c).nextAnswer = some a := (State.nextAnswer_congr rfl rfl rfl).trans ha
  have hf : (s.issue c).Flows := ⟨h.1, by simp [h.2]⟩
  show s.callThen c k rest (run rest) = _
  rw [State.callThen, State.struck_of_flows h, if_neg (by simp), State.awaitThen_of_answer (State.struck_of_flows hf) ha',
    State.sendThen_of_flows (s := ((s.issue c).settle c).noteDraw k a) ⟨h.1, by simp [h.2]⟩]
  have hp : ((s.issue c).settle c).payload k a = s.popAnswer.payload k a := rfl
  rw [hp]
  congr 1
  simp only [State.noteDraw, State.settle, State.popAnswer, State.issue, h.2, Option.map_none, State.mk.injEq, true_and]
  cases c.usesOneWire <;> cases c.usesDht <;> simp

/-- A call without an answer at hand: made, left outstanding, its handle open. -/
theorem run_call_of_silence {s : State} (h : s.struck = false) (ha : s.nextAnswer = none) (c : Call) (k : After) (rest : List Micro) :
    run (.call c k :: rest) s = { s.issue c with todo := .await c k :: rest } :=
  (if_neg (by simp [h])).trans
    (State.awaitThen_of_silence (s := s.issue c) ((State.nextAnswer_congr rfl rfl rfl).trans ha) c k rest (run rest))

/-- The cycle of every command with one call whose answer decides the payload. -/
theorem State.begin_tx_call {s : State} {a : Answer} (h : s.Flows) (ha : s.nextAnswer = some a) (pre : List Byte)
    (c : Call) (k : After) :
    s.begin [.tx pre, .call c k] = { s.popAnswer with
      ph := .scan, todo := [],
      trace := s.trace ++ sent pre ++ [.called c, .returned c] ++ sent (s.popAnswer.payload k a),
      owOpen := s.owOpen && !c.usesOneWire, dhtOpen := s.dhtOpen && !c.usesDht,
      draws := if k.drawsToken a then s.popAnswer.draws + 1 else s.popAnswer.draws } := by
  unfold State.begin
  rw [run_tx_of_flows, run_call_of_answer (a := a)]
  · rfl
  · exact h
  · exact ha
  · exact h

/-- Every command's meaning is a next state reached by running lines that hold no outstanding call. -/
theorem exec_cases (i : Instr) (s : State) :
    ∃ ms : List Micro, (∀ m ∈ ms, m.isAwait = false) ∧ exec i s = .next (s.begin ms) := by
  cases i
  case anaWr p v =>
    refine ⟨_, ?_, rfl⟩
    split <;> simp [Micro.isAwait, Condition.handling]
  all_goals exact ⟨_, by simp [Micro.isAwait], rfl⟩

/-- What closing a record can do: run lines that hold no outstanding call, after the field registers were written or not. -/
theorem rxClose_cases (s : State) :
    ∃ ms s', (∀ m ∈ ms, Micro.isAwait m = false) ∧ rxClose s = .next (State.begin ms s') ∧
      (s' = s ∨ ∃ f, fieldsOf s.raw = some f ∧ s' = s.writeFields f) := by
  unfold rxClose
  split
  · next f hf =>
    unfold dispatch
    split
    · next i _ =>
      obtain ⟨ms, hms, h⟩ := exec_cases i (s.writeFields f)
      exact ⟨ms, _, hms, h, .inr ⟨f, hf, rfl⟩⟩
    all_goals exact ⟨_, _, by simp [Micro.isAwait, Condition.handling], rfl, .inr ⟨f, hf, rfl⟩⟩
  · exact ⟨_, _, by simp [Micro.isAwait, Condition.handling], rfl, .inl rfl⟩

/-- What one action of the sequencer can do (R120, R270). -/
theorem act_cases (s : State) :
    (s.ph = .exec ∧ act s = .next (run s.todo s)) ∨
    (s.ph ≠ .exec ∧ s.rx = [] ∧ act s = .next s) ∨
    (∃ e es, s.rx = e :: es ∧ s.ph = .scan ∧
      (act s = .next { s with rx := es } ∨
       (e = .byte startByte ∧ act s = .next { s with rx := es, raw := [], ph := .collect }))) ∨
    (∃ e es, s.rx = e :: es ∧ s.ph = .collect ∧
      ((∃ b, e = .byte b ∧ b ≠ endByte ∧ s.cfg.rawMax ≠ some (s.raw.length + 1) ∧
          act s = .next { s with rx := es, raw := s.raw ++ [b] }) ∨
       (∃ b, e = .byte b ∧ b ≠ endByte ∧ s.cfg.rawMax = some (s.raw.length + 1) ∧
          act s = rxClose { s with rx := es, raw := s.raw ++ [b] }) ∨
       ((e = .boundary ∨ e = .byte endByte) ∧ act s = rxClose { s with rx := es }))) := by
  rcases hp : s.ph with _ | _ | _ <;> rcases hr : s.rx with _ | ⟨e, es⟩
  · exact .inr (.inl ⟨by simp, rfl, by simp [act, hp, hr, rxIdle]⟩)
  · refine .inr (.inr (.inl ⟨e, es, rfl, rfl, ?_⟩))
    cases e with
    | boundary => exact .inl (by simp [act, hp, hr, scanEvent, rxIdle])
    | byte b =>
      by_cases hb : b = startByte
      · exact .inr ⟨by rw [hb], by simp [act, hp, hr, scanEvent, rxStart, hb]⟩
      · exact .inl (by simp [act, hp, hr, scanEvent, rxNoise, hb])
  · exact .inr (.inl ⟨by simp, rfl, by simp [act, hp, hr, rxIdle]⟩)
  · refine .inr (.inr (.inr ⟨e, es, rfl, rfl, ?_⟩))
    cases e with
    | boundary => exact .inr (.inr ⟨.inl rfl, by simp [act, hp, hr, collectEvent, rxBound]⟩)
    | byte b =>
      by_cases hb : b = endByte
      · exact .inr (.inr ⟨.inr (by rw [hb]), by simp [act, hp, hr, collectEvent, rxEnd, hb]⟩)
      · by_cases hf : s.cfg.rawMax = some (s.raw.length + 1)
        · exact .inr (.inl ⟨b, rfl, hb, hf,
            by simp [act, hp, hr, collectEvent, hb, rxData, rxFull, State.rawFull, hf]⟩)
        · exact .inl ⟨b, rfl, hb, hf, by simp [act, hp, hr, collectEvent, hb, rxData, State.rawFull, hf]⟩
  · exact .inl ⟨rfl, by simp [act, hp]⟩
  · exact .inl ⟨rfl, by simp [act, hp]⟩

/-- An action always answers a next state, and where no reset is coming before it, none is after it. -/
theorem act_next (s : State) : ∃ t, act s = .next t ∧ (s.resetIn = none → t.resetIn = none) := by
  have close : ∀ u : State, u.resetIn = s.resetIn → ∃ t, rxClose u = .next t ∧ (s.resetIn = none → t.resetIn = none) := by
    intro u hu
    obtain ⟨ms, s', -, h, hs⟩ := rxClose_cases u
    refine ⟨_, h, fun hn => run_resetIn_none ms ?_⟩
    rcases hs with rfl | ⟨f, -, rfl⟩ <;> simpa [hu] using hn
  rcases act_cases s with ⟨-, h⟩ | ⟨-, -, h⟩ | ⟨e, es, -, -, h | ⟨-, h⟩⟩ | ⟨e, es, -, -, ⟨b, -, -, -, h⟩ | ⟨b, -, -, -, h⟩ | ⟨-, h⟩⟩
  · exact ⟨_, h, run_resetIn_none _⟩
  · exact ⟨_, h, id⟩
  · exact ⟨_, h, id⟩
  · exact ⟨_, h, id⟩
  · exact ⟨_, h, id⟩
  · exact h ▸ close _ rfl
  · exact h ▸ close _ rfl

/-- What `strikeAfter` answers is what the action answers, after the reset that falls due in it. -/
theorem strikeAfter_eq_next {r : Result} {t : State} (h : strikeAfter r = .next t) : ∃ u, r = .next u ∧ t = u.strike := by
  cases r with
  | next u => exact ⟨u, rfl, (Host.Outcome.next.inj h).symm⟩
  | fault e => cases h
  | refused e => cases h

/-- Where no reset is coming, an action is not cut short. -/
theorem strikeAfter_act_of_none {s : State} (h : s.resetIn = none) : strikeAfter (act s) = act s := by
  obtain ⟨t, ht, hn⟩ := act_next s
  simp [strikeAfter, ht, State.strike, State.struck, hn h]

/-- What a step can do: act with nothing happening outside, reset the block, or act after something happened outside. -/
theorem step_cases (s : State) :
    (s.outside = [] ∧ step s = strikeAfter (act s)) ∨
    (∃ rest, s.outside = .reset :: rest ∧ step s = .next { s.resetBlock with outside := rest }) ∨
    (∃ e rest, s.outside = e :: rest ∧ e ≠ .reset ∧ step s = strikeAfter (act ({ s with outside := rest }.hear e))) := by
  rcases h : s.outside with _ | ⟨e, rest⟩
  · exact .inl ⟨rfl, by simp [step, stepWithOutside, h]⟩
  · cases e with
    | reset => exact .inr (.inl ⟨rest, rfl, by simp [step, stepWithOutside, h]⟩)
    | quiet | resetIn _ | deliver _ | answer _ | room _ =>
      exact .inr (.inr ⟨_, rest, rfl, by simp, by simp [step, stepWithOutside, h]⟩)

/-- Where nothing comes from outside and no reset is coming, a step is one action. -/
theorem step_of_quiet {s : State} (h : s.Quiet) : step s = act s := by
  rw [← strikeAfter_act_of_none h.2]
  simp [step, stepWithOutside, h.1]

/-! ### Several steps -/

theorem steps_zero (s : State) : steps 0 s = .next s := rfl

/-- One step in front of `n`. -/
theorem steps_succ_of_next {s t : State} (h : step s = .next t) (n : Nat) : steps (n + 1) s = steps n t := by
  have : Sys2Proof.core.step s = .next t := h
  simp only [steps, Host.Core.run, this]
  rfl

/-- `n` steps and then `m`. -/
theorem steps_add_of_next {n : Nat} {s t : State} (h : steps n s = .next t) (m : Nat) : steps (n + m) s = steps m t := by
  induction n generalizing s with
  | zero => cases h; rw [Nat.zero_add]
  | succ n ih =>
    rcases hs : step s with u | r | r
    · rw [steps_succ_of_next hs] at h
      rw [Nat.add_right_comm, steps_succ_of_next hs]
      exact ih h
    · have : Sys2Proof.core.step s = .fault r := hs
      simp [steps, Host.Core.run, this] at h
    · have : Sys2Proof.core.step s = .refused r := hs
      simp [steps, Host.Core.run, this] at h

end Sys2Proof.Machine
end

