-- ==== Sys2Proof/Laws/Cycle.lean ====
section
/-! SUPPORT. Sys2Proof/Laws/Cycle.lean: the lines of each command's dispatch cycle (R219), and that a cycle depends on the part of
the state it reads and runs to its end where everything answers. -/

namespace Sys2Proof.Machine

/-- R219: the lines of a command's dispatch cycle under a configuration. -/
def cycleOf (cfg : Cfg) : Instr → List Micro
  | .sysMem p _ => [.tx (preamble cfg Letter.z p), .call .freeMemory .freeMem]
  | .sysVer p _ => [.tx (preamble cfg Letter.z p), .tx (twoTokens cfg labelVersion cfg.fwVersion)]
  | .anaRd p _ => [.tx (preamble cfg Letter.A p), .call (.analogRead p) .number]
  | .anaWr p v =>
    .tx (preamble cfg Letter.A p) ::
      ((if pwmCapable cfg p then [.call (.analogWrite p v) .nothing] else Condition.nonPwmPinWrite.handling cfg) ++
        [.tx (lastToken cfg (dec v))])
  | .digRd p _ => [.tx (preamble cfg Letter.D p), .call (.digitalRead p) .level]
  | .digWr p v =>
    [.tx (preamble cfg Letter.D p), .call (.digitalWrite p (levelOf v)) .nothing, .call (.digitalRead p) .level]
  | .modeIn p _ =>
    [.tx (preamble cfg Letter.M p), .call (.pinMode p .inp) .nothing, .tx (lastToken cfg (dec (modeConstant cfg .inp)))]
  | .modePu p _ =>
    [.tx (preamble cfg Letter.M p), .call (.pinMode p .inpPullup) .nothing,
     .tx (lastToken cfg (dec (modeConstant cfg .inpPullup)))]
  | .modeOut p _ =>
    [.tx (preamble cfg Letter.M p), .call (.pinMode p .out) .nothing, .tx (lastToken cfg (dec (modeConstant cfg .out)))]
  | .modeRd p _ => [.tx (preamble cfg Letter.M p), .call (.readMode p) .mode]
  | .owTemp _ p v => [.tx (preamble cfg Letter.w p), .call (.owReadTempC p v owResolution) (.temp v)]
  | .owTempU _ p v => [.tx (preamble cfg Letter.W p), .call (.owReadTempC p v owResolution) (.temp v)]
  | .dhtRd _ p v => [.tx (preamble cfg Letter.S p), .call (.dhtRead p v) .dht]

/-- Every command's meaning is its cycle. -/
theorem exec_eq_cycleOf (i : Instr) (s : State) : exec i s = .next (s.begin (cycleOf s.cfg i)) := by
  cases i <;> rfl

/-- The part of the state a dispatch cycle reads, and the trace it extends. -/
structure SameCycle (s t : State) : Prop where
  trace : s.trace = t.trace
  cfg : s.cfg = t.cfg
  answers : s.answers = t.answers
  answering : s.answering = t.answering
  room : s.room = t.room
  resetIn : s.resetIn = t.resetIn
  draws : s.draws = t.draws

theorem SameCycle.refl (s : State) : SameCycle s s := ⟨rfl, rfl, rfl, rfl, rfl, rfl, rfl⟩

theorem struck_congr {s t : State} (h : SameCycle s t) : s.struck = t.struck := by
  simp [State.struck, h.resetIn]

theorem sendThen_congr {s t : State} (h : SameCycle s t) (bs : List Byte) (rest : List Micro) {go : State → State}
    (hgo : ∀ s t, SameCycle s t → SameCycle (go s) (go t)) : SameCycle (s.sendThen bs rest go) (t.sendThen bs rest go) := by
  have hl : s.limit = t.limit := State.limit_congr h.room h.resetIn
  have hu : s.unsent bs = t.unsent bs := by simp [State.unsent, hl]
  have ht : s.taken bs = t.taken bs := by simp [State.taken, hl]
  have he : SameCycle (s.emit bs) (t.emit bs) :=
    ⟨by simp [h.trace, ht], h.cfg, h.answers, h.answering, by simp [h.room, ht], by simp [h.resetIn, ht], h.draws⟩
  unfold State.sendThen
  rw [hu]
  cases t.unsent bs with
  | nil => exact hgo _ _ he
  | cons b bs => exact ⟨he.trace, he.cfg, he.answers, he.answering, he.room, he.resetIn, he.draws⟩

theorem awaitThen_congr {s t : State} (h : SameCycle s t) (c : Call) (k : After) (rest : List Micro) {go : State → State}
    (hgo : ∀ s t, SameCycle s t → SameCycle (go s) (go t)) : SameCycle (s.awaitThen c k rest go) (t.awaitThen c k rest go) := by
  unfold State.awaitThen
  rw [State.nextAnswer_congr h.answers h.answering h.draws, struck_congr h]
  cases if t.struck then none else t.nextAnswer with
  | none => exact ⟨h.trace, h.cfg, h.answers, h.answering, h.room, h.resetIn, h.draws⟩
  | some a =>
    have hp : (s.settle c).payload k a = (t.settle c).payload k a := by
      unfold State.payload
      cases k <;> simp [h.cfg, h.answers, h.draws]
    dsimp only
    rw [hp]
    exact sendThen_congr (s := (s.settle c).noteDraw k a) (t := (t.settle c).noteDraw k a)
      ⟨by simp [h.trace], h.cfg, by simp [h.answers], h.answering, h.room, by simp [h.resetIn],
        by simp [h.answers, h.draws]⟩ _ rest hgo

/-- A cycle from states that agree in what it reads ends in states that agree in it. -/
theorem run_congr (ms : List Micro) : ∀ {s t : State}, SameCycle s t → SameCycle (run ms s) (run ms t) := by
  induction ms with
  | nil => exact fun h => ⟨h.trace, h.cfg, h.answers, h.answering, h.room, h.resetIn, h.draws⟩
  | cons m rest ih =>
    intro s t h
    cases m with
    | tx bs => exact sendThen_congr h bs rest (fun _ _ => ih)
    | call c k =>
      show SameCycle (s.callThen c k rest (run rest)) (t.callThen c k rest (run rest))
      unfold State.callThen
      rw [struck_congr h]
      split
      · exact ⟨h.trace, h.cfg, h.answers, h.answering, h.room, h.resetIn, h.draws⟩
      · exact awaitThen_congr (s := s.issue c) (t := t.issue c)
          ⟨by simp [h.trace], h.cfg, h.answers, h.answering, h.room, by simp [h.resetIn], h.draws⟩ c k rest (fun _ _ => ih)
    | await c k => exact awaitThen_congr h c k rest (fun _ _ => ih)

/-- Where everything flows and every call is answered, a cycle runs to its end (R145). -/
theorem run_completes (ms : List Micro) :
    ∀ s : State, s.Flows → s.answering = true → (run ms s).ph = .scan ∧ (run ms s).Flows := by
  induction ms with
  | nil => exact fun s h _ => ⟨rfl, h⟩
  | cons m rest ih =>
    have hawait : ∀ c k (s : State), s.Flows → s.answering = true →
        (s.awaitThen c k rest (run rest)).ph = .scan ∧ (s.awaitThen c k rest (run rest)).Flows := by
      intro c k s h1 h2
      obtain ⟨a, ha⟩ : ∃ a, s.nextAnswer = some a := by
        unfold State.nextAnswer
        cases s.answers <;> simp [h2]
      have hf : ((s.settle c).noteDraw k a).Flows := ⟨h1.1, by simp [h1.2]⟩
      rw [State.awaitThen_of_answer (State.struck_of_flows h1) ha, State.sendThen_of_flows hf]
      exact ih _ hf (by simpa using h2)
    intro s h1 h2
    cases m with
    | tx bs =>
      rw [run_tx_of_flows h1]
      exact ih _ h1 h2
    | call c k =>
      show (s.callThen c k rest (run rest)).ph = .scan ∧ (s.callThen c k rest (run rest)).Flows
      rw [State.callThen, State.struck_of_flows h1, if_neg (by simp)]
      exact hawait c k (s.issue c) ⟨h1.1, by simp [h1.2]⟩ h2
    | await c k => exact hawait c k _ h1 h2

end Sys2Proof.Machine
end

