-- ==== Sys2Proof/Laws/Encoding.lean ====
section
/-! SUPPORT. Sys2Proof/Laws/Encoding.lean: the small lemmas of well-formedness, of the encoder and of
the masks of the opcode table. -/

namespace Sys2Proof

/-- Well-formedness as a proposition over the operands. -/
theorem Instr.wellFormed_iff (i : Instr) :
    i.wellFormed = true ↔ i.pin < 100 ∧ i.val < 1000 ∧ ∀ o ∈ i.freeOp, o ≠ 0x3E#8 := by
  simp only [Instr.wellFormed, Bool.and_eq_true, decide_eq_true_iff, and_assoc]
  cases i.freeOp <;> simp

/-- An encoded digit is a digit byte, stands for its number, and is not the end delimiter. -/
theorem digitByte_spec {n : Nat} (h : n < 10) :
    isDigit (digitByte n) = true ∧ (digitByte n).toNat - 0x30 = n ∧ digitByte n ≠ 0x3E#8 := by
  interval_cases n <;> decide

/-- A frame word has seven interior bytes (R8). -/
theorem frameBytes_length (w : FrameWord) : (frameBytes w).length = 7 := rfl

/-! ### The rows of the opcode table (R8, R90) -/

/-- A frame word under a mask of its high bits equals a shifted field exactly if its high bits are that field. -/
theorem and_eq_shiftLeft_iff {lo n : Nat} (hn : lo + n = 56) (m : FrameWord)
    (hm : ∀ i < 56, m.getLsbD i = decide (lo ≤ i)) (w : FrameWord) (c : BitVec n) :
    w &&& m = c.setWidth 56 <<< lo ↔ w.extractLsb' lo n = c := by
  constructor
  · intro h
    ext i hi
    have hb := congrArg (fun v : FrameWord => v.getLsbD (lo + i)) h
    simp only [BitVec.getLsbD_and, hm _ (show lo + i < 56 by omega), BitVec.getLsbD_shiftLeft, BitVec.getLsbD_setWidth] at hb
    simpa [show lo + i < 56 by omega, show i < 56 by omega, hi] using hb
  · rintro rfl
    apply BitVec.eq_of_getLsbD_eq
    intro i hi
    simp only [BitVec.getLsbD_and, hm i hi, BitVec.getLsbD_shiftLeft, BitVec.getLsbD_setWidth, BitVec.getLsbD_extractLsb']
    by_cases h : i < lo
    · simp [h]
    · simp [h, hi, show i - lo < n by omega, show lo + (i - lo) = i by omega, show lo ≤ i by omega, show i - lo < 56 by omega]

/-- A row whose mask is byte 0. -/
theorem firstByte_iff (w : FrameWord) (a : Byte) :
    w &&& 0xFF000000000000 = a.setWidth 56 <<< 48 ↔ w.extractLsb' 48 8 = a :=
  and_eq_shiftLeft_iff rfl _ (by decide) w a

/-- A row whose mask is bytes 0 and 1. -/
theorem firstTwoBytes_iff (w : FrameWord) (a b : Byte) :
    w &&& 0xFFFF0000000000 = (a ++ b).setWidth 56 <<< 40 ↔ w.extractLsb' 48 8 = a ∧ w.extractLsb' 40 8 = b := by
  rw [and_eq_shiftLeft_iff (n := 16) rfl _ (by decide) w (a ++ b)]
  have hw : w.extractLsb' 40 16 = w.extractLsb' 48 8 ++ w.extractLsb' 40 8 := by
    apply BitVec.eq_of_getLsbD_eq
    intro i hi
    rw [BitVec.getLsbD_append]
    by_cases h : i < 8
    · simp [h, hi]
    · simp [h, hi, show i - 8 < 8 by omega, show 48 + (i - 8) = 40 + i by omega]
  rw [hw]
  constructor
  · intro h
    have h1 := congrArg (BitVec.extractLsb' 8 8) h
    have h2 := congrArg (BitVec.extractLsb' 0 8) h
    simp only [BitVec.extractLsb'_append_eq_left, BitVec.extractLsb'_append_eq_right] at h1 h2
    exact ⟨h1, h2⟩
  · rintro ⟨rfl, rfl⟩; rfl

end Sys2Proof
end

