-- ==== Sys2Proof/Laws/PerInstr.lean ====
section
/-! SUPPORT. Sys2Proof/Laws/PerInstr.lean: the family FrameShape, one lemma per command. -/

namespace Sys2Proof.Laws.FrameShape

/-- R81, R90: a command's encoding is a command letter, an operation byte (its own, where the table leaves it free) and the five
bytes of its pin and value: seven interior bytes. -/
def Statement (i : Instr) : Prop :=
  ∃ c o, encode i = c :: o :: encodeNumbers i.pin i.val ∧ (∀ b ∈ i.freeOp, b = o) ∧ (encode i).length = 7

theorem sysMem (pin val : Nat) : Statement (.sysMem pin val) :=
  ⟨_, _, rfl, by simp [Instr.freeOp], rfl⟩

theorem sysVer (pin val : Nat) : Statement (.sysVer pin val) :=
  ⟨_, _, rfl, by simp [Instr.freeOp], rfl⟩

theorem anaRd (pin val : Nat) : Statement (.anaRd pin val) :=
  ⟨_, _, rfl, by simp [Instr.freeOp], rfl⟩

theorem anaWr (pin val : Nat) : Statement (.anaWr pin val) :=
  ⟨_, _, rfl, by simp [Instr.freeOp], rfl⟩

theorem digRd (pin val : Nat) : Statement (.digRd pin val) :=
  ⟨_, _, rfl, by simp [Instr.freeOp], rfl⟩

theorem digWr (pin val : Nat) : Statement (.digWr pin val) :=
  ⟨_, _, rfl, by simp [Instr.freeOp], rfl⟩

theorem modeIn (pin val : Nat) : Statement (.modeIn pin val) :=
  ⟨_, _, rfl, by simp [Instr.freeOp], rfl⟩

theorem modePu (pin val : Nat) : Statement (.modePu pin val) :=
  ⟨_, _, rfl, by simp [Instr.freeOp], rfl⟩

theorem modeOut (pin val : Nat) : Statement (.modeOut pin val) :=
  ⟨_, _, rfl, by simp [Instr.freeOp], rfl⟩

theorem modeRd (pin val : Nat) : Statement (.modeRd pin val) :=
  ⟨_, _, rfl, by simp [Instr.freeOp], rfl⟩

theorem owTemp (op : Byte) (pin val : Nat) : Statement (.owTemp op pin val) :=
  ⟨_, _, rfl, by simp [Instr.freeOp], rfl⟩

theorem owTempU (op : Byte) (pin val : Nat) : Statement (.owTempU op pin val) :=
  ⟨_, _, rfl, by simp [Instr.freeOp], rfl⟩

theorem dhtRd (op : Byte) (pin val : Nat) : Statement (.dhtRd op pin val) :=
  ⟨_, _, rfl, by simp [Instr.freeOp], rfl⟩

end Sys2Proof.Laws.FrameShape
end

