-- ==== Sys2Proof/Tests/Slice0.lean ====
section
/-! SUPPORT. Sys2Proof/Tests/Slice0.lean: tests whose expected results are the vectors of 95_test_vectors.md (its configuration T0)
or words written out from the spec's encodings, the ill-formed terms WellFormed refuses, and for each obligation with hypotheses
a witness that meets them. -/

namespace Sys2Proof.Tests

open Sys2Proof.Machine

/-! ### The test configuration T0 of 95_test_vectors.md and small states -/

/-- T0: `dev`, `0.7.0`, `free`, pins 3 5 6 9 10 11, modes 0 2 1, line feed, `ERR:`, no limit of RAW. -/
def t0Cfg : Cfg where
  deviceId := [0x64, 0x65, 0x76]
  fwVersion := [0x30, 0x2E, 0x37, 0x2E, 0x30]
  labelFreemem := [0x66, 0x72, 0x65, 0x65]
  pwmSet := [3, 5, 6, 9, 10, 11]
  modeInput := 0
  modeInputPullup := 2
  modeOutput := 1
  eol := [0x0A]
  diagPrefix := [0x45, 0x52, 0x52, 0x3A]
  rawMax := none

/-- The state after reset under T0, the collaborators being silent beyond the answers given. -/
def t0 : State := { State.reset with cfg := t0Cfg, answering := false }

/-- A frame open with these interior bytes, the end delimiter next on RX, these answers at hand. -/
def frameOpen (raw : List Byte) (answers : List Answer) : State :=
  { t0 with ph := .collect, raw := raw, rx := [.byte 0x3E], answers := answers }

/-- An answer with this number and level, the other components arbitrary. -/
def numberAnswer (level : Bool) (n : Nat) : Answer := ⟨level, n, .out, .nan, .nan⟩

/-- An answer with this mode. -/
def modeAnswer (m : PinMode) : Answer := ⟨false, 0, m, .nan, .nan⟩

/-- An answer with these readings. -/
def readings (a b : Reading) : Answer := ⟨false, 0, .out, a, b⟩

/-- TX after an outcome; nothing where there is no next state. -/
def txOf : Result → List Byte
  | .next t => t.tx
  | .fault _ | .refused _ => []

/-- The calls after an outcome. -/
def callsOf : Result → List Call
  | .next t => t.calls
  | .fault _ | .refused _ => []

/-- The phase after an outcome, SCAN where there is no next state. -/
def phaseOf : Result → Phase
  | .next t => t.ph
  | .fault _ | .refused _ => .scan

/-- Bytes as RX events. -/
def rxBytes (bs : List Byte) : List RxEvent := bs.map .byte

/-! ### WellFormed refuses an ill-formed term for each of its checks -/

/-- R84: a pin above 99. -/
theorem test_wellFormed_refuses_pin_100 : (Instr.anaWr 100 0).wellFormed = false := by decide
/-- R85: a value above 999. -/
theorem test_wellFormed_refuses_value_1000 : (Instr.anaWr 0 1000).wellFormed = false := by decide
/-- R82, R95: a free operation byte that is the end delimiter. -/
theorem test_wellFormed_refuses_op_end : (Instr.owTemp 0x3E 0 0).wellFormed = false := by decide
/-- The largest operands and the neighbours of the end delimiter are well-formed. -/
theorem test_wellFormed_accepts_bounds :
    (Instr.anaWr 99 999).wellFormed = true ∧ (Instr.dhtRd 0x3D 99 999).wellFormed = true ∧
    (Instr.owTempU 0x3F 0 0).wellFormed = true := by decide

/-! ### Decoding: words written out from the spec's encodings -/

/-- `zz12345` (R150). -/
theorem test_decode_sysMem : decode [0x7A, 0x7A, 0x31, 0x32, 0x33, 0x34, 0x35] = .command (.sysMem 12 345) := by decide
/-- `zv00000` (R151, S4). -/
theorem test_decode_sysVer : decode [0x7A, 0x76, 0x30, 0x30, 0x30, 0x30, 0x30] = .command (.sysVer 0 0) := by decide
/-- `AR03000` (R160). -/
theorem test_decode_anaRd : decode [0x41, 0x52, 0x30, 0x33, 0x30, 0x30, 0x30] = .command (.anaRd 3 0) := by decide
/-- `AW09128` (R161). -/
theorem test_decode_anaWr : decode [0x41, 0x57, 0x30, 0x39, 0x31, 0x32, 0x38] = .command (.anaWr 9 128) := by decide
/-- `DR08000` (R170, D2). -/
theorem test_decode_digRd : decode [0x44, 0x52, 0x30, 0x38, 0x30, 0x30, 0x30] = .command (.digRd 8 0) := by decide
/-- `DW07001` (R171, S2). -/
theorem test_decode_digWr : decode [0x44, 0x57, 0x30, 0x37, 0x30, 0x30, 0x31] = .command (.digWr 7 1) := by decide
/-- `MI05000` (R180). -/
theorem test_decode_modeIn : decode [0x4D, 0x49, 0x30, 0x35, 0x30, 0x30, 0x30] = .command (.modeIn 5 0) := by decide
/-- `MP02000` (R181, PRG5). -/
theorem test_decode_modePu : decode [0x4D, 0x50, 0x30, 0x32, 0x30, 0x30, 0x30] = .command (.modePu 2 0) := by decide
/-- `MO05000` (R182, S1). -/
theorem test_decode_modeOut : decode [0x4D, 0x4F, 0x30, 0x35, 0x30, 0x30, 0x30] = .command (.modeOut 5 0) := by decide
/-- `MR05000` (R183). -/
theorem test_decode_modeRd : decode [0x4D, 0x52, 0x30, 0x35, 0x30, 0x30, 0x30] = .command (.modeRd 5 0) := by decide
/-- `wR02003` (R190, W3). -/
theorem test_decode_owTemp : decode [0x77, 0x52, 0x30, 0x32, 0x30, 0x30, 0x33] = .command (.owTemp 0x52 2 3) := by decide
/-- `WR05001` (R191: not a read, byte 0 decides). -/
theorem test_decode_owTempU : decode [0x57, 0x52, 0x30, 0x35, 0x30, 0x30, 0x31] = .command (.owTempU 0x52 5 1) := by decide
/-- `S014002` (R200, S5). -/
theorem test_decode_dhtRd : decode [0x53, 0x30, 0x31, 0x34, 0x30, 0x30, 0x32] = .command (.dhtRd 0x30 14 2) := by decide

/-- R97: lower-case letters are no operations of `A`; `Z` is no command. -/
theorem test_decode_rejects_by_name :
    decode [0x41, 0x72, 0x30, 0x35, 0x30, 0x30, 0x30] = .rejected .unrecognizedOperation ∧ decode [0x5A, 0x7A, 0x30, 0x30, 0x30, 0x30, 0x30] = .rejected .unrecognizedCommand ∧
    decode [0x7A, 0x7A, 0x30, 0x30, 0x30, 0x30] = .rejected .wrongLength := by decide
/-- The same through the numbering of opcode_table.json: `DW07001`, and a word with the end delimiter inside (R82). -/
theorem test_decodeTableWord :
    decodeTableWord 56 0x44573037303031 = some (.digWr 7 1) ∧ decodeTableWord 56 0x773E3032303033 = none := by decide
/-- A row's word without its operand bits: `zz` and five zero bytes, which parse to 0 (R86). -/
theorem test_decodeTableWord_zeros : decodeTableWord 56 0x7A7A0000000000 = some (.sysMem 0 0) := by decide

/-- Vectors P1 to P19 of parse_dec. -/
theorem test_parseDec :
    parseDec [0x30, 0x30] = 0 ∧ parseDec [0x30, 0x35] = 5 ∧ parseDec [0x31, 0x34] = 14 ∧
    parseDec [0x39, 0x39] = 99 ∧ parseDec [0x30, 0x30, 0x31] = 1 ∧ parseDec [0x32, 0x35, 0x36] = 256 ∧
    parseDec [0x39, 0x39, 0x39] = 999 ∧ parseDec [0x31, 0x61] = 0 ∧ parseDec [0x61, 0x31] = 0 ∧
    parseDec [0x20, 0x35] = 0 ∧ parseDec [0x2D, 0x31] = 0 ∧ parseDec [0x35, 0x20] = 0 ∧
    parseDec [0x31, 0x2E, 0x35] = 0 ∧ parseDec [0x30, 0x78, 0x31] = 0 := by decide
/-- Section 2.1: dec. -/
theorem test_dec :
    dec 0 = [0x30] ∧ dec 5 = [0x35] ∧ dec 14 = [0x31, 0x34] ∧ dec 999 = [0x39, 0x39, 0x39] ∧
    dec 1023 = [0x31, 0x30, 0x32, 0x33] := by decide

/-! ### The literals the source fixes (R5) -/

/-- MSG_DHT_FAIL has 31 bytes (R5) and is the text of S5. -/
theorem test_msgDhtFail : msgDhtFail.length = 31 ∧ msgDhtFail =
    [0x46, 0x61, 0x69, 0x6C, 0x65, 0x64, 0x20, 0x74, 0x6F, 0x20, 0x72, 0x65, 0x61, 0x64, 0x20] ++
    [0x66, 0x72, 0x6F, 0x6D, 0x20, 0x44, 0x48, 0x54, 0x20, 0x73, 0x65, 0x6E, 0x73, 0x6F, 0x72, 0x21] := by decide

/-! ### One step per command under T0 (95_test_vectors.md section 2; a few from section 1) -/

/-- Z2: pin and value are decoded and ignored. -/
theorem test_sysMem_reply :
    txOf (step (frameOpen [0x7A, 0x7A, 0x39, 0x39, 0x39, 0x39, 0x39] [numberAnswer false 1500])) =
      [0x64, 0x65, 0x76, 0x25, 0x66, 0x72, 0x65, 0x65, 0x25, 0x31, 0x35, 0x30, 0x30, 0x0A] ∧
    callsOf (step (frameOpen [0x7A, 0x7A, 0x39, 0x39, 0x39, 0x39, 0x39] [numberAnswer false 1500])) = [.freeMemory] := by decide
/-- S4: `zv00000` makes no call. -/
theorem test_sysVer_reply :
    txOf (step (frameOpen [0x7A, 0x76, 0x30, 0x30, 0x30, 0x30, 0x30] [])) =
      [0x64, 0x65, 0x76, 0x25, 0x76, 0x65, 0x72, 0x73, 0x69, 0x6F, 0x6E, 0x25, 0x30, 0x2E, 0x37, 0x2E, 0x30, 0x0A] ∧
    callsOf (step (frameOpen [0x7A, 0x76, 0x30, 0x30, 0x30, 0x30, 0x30] [])) = [] := by decide
/-- X20: a malformed value field changes nothing. -/
theorem test_sysVer_ignores_fields :
    txOf (step (frameOpen [0x7A, 0x76, 0x30, 0x30, 0x25, 0x30, 0x30] [])) =
      [0x64, 0x65, 0x76, 0x25, 0x76, 0x65, 0x72, 0x73, 0x69, 0x6F, 0x6E, 0x25, 0x30, 0x2E, 0x37, 0x2E, 0x30, 0x0A] ∧
    callsOf (step (frameOpen [0x7A, 0x76, 0x30, 0x30, 0x25, 0x30, 0x30] [])) = [] := by decide
/-- A3: the value field is ignored. -/
theorem test_anaRd_reply :
    txOf (step (frameOpen [0x41, 0x52, 0x30, 0x35, 0x37, 0x37, 0x37] [numberAnswer false 512])) =
      [0x64, 0x65, 0x76, 0x25, 0x35, 0x25, 0x35, 0x31, 0x32, 0x0A] ∧
    callsOf (step (frameOpen [0x41, 0x52, 0x30, 0x35, 0x37, 0x37, 0x37] [numberAnswer false 512])) = [.analogRead 5] := by decide
/-- A8: 999 is passed on and echoed; pin 10 is in PWM_SET. -/
theorem test_anaWr_above_255 :
    txOf (step (frameOpen [0x41, 0x57, 0x31, 0x30, 0x39, 0x39, 0x39] [numberAnswer false 0])) =
      [0x64, 0x65, 0x76, 0x25, 0x31, 0x30, 0x25, 0x39, 0x39, 0x39, 0x0A] ∧
    callsOf (step (frameOpen [0x41, 0x57, 0x31, 0x30, 0x39, 0x39, 0x39] [numberAnswer false 0])) = [.analogWrite 10 999] := by decide
/-- PRG3: pin 4 is not in PWM_SET, no call, the same echo. -/
theorem test_anaWr_other_pin :
    txOf (step (frameOpen [0x41, 0x57, 0x30, 0x34, 0x31, 0x32, 0x38] [])) =
      [0x64, 0x65, 0x76, 0x25, 0x34, 0x25, 0x31, 0x32, 0x38, 0x0A] ∧
    callsOf (step (frameOpen [0x41, 0x57, 0x30, 0x34, 0x31, 0x32, 0x38] [])) = [] := by decide
/-- D9: a malformed pin reads pin 0. -/
theorem test_digRd_malformed_pin :
    txOf (step (frameOpen [0x44, 0x52, 0x78, 0x37, 0x30, 0x30, 0x30] [numberAnswer true 0])) =
      [0x64, 0x65, 0x76, 0x25, 0x30, 0x25, 0x31, 0x0A] ∧
    callsOf (step (frameOpen [0x44, 0x52, 0x78, 0x37, 0x30, 0x30, 0x30] [numberAnswer true 0])) = [.digitalRead 0] := by decide
/-- D5: 255 writes 1, the reply is the level read. -/
theorem test_digWr_truthiness :
    txOf (step (frameOpen [0x44, 0x57, 0x30, 0x37, 0x32, 0x35, 0x35] [numberAnswer false 0, numberAnswer true 0])) =
      [0x64, 0x65, 0x76, 0x25, 0x37, 0x25, 0x31, 0x0A] ∧
    callsOf (step (frameOpen [0x44, 0x57, 0x30, 0x37, 0x32, 0x35, 0x35] [numberAnswer false 0, numberAnswer true 0])) = [.digitalWrite 7 true, .digitalRead 7] := by decide
/-- D12: the oracle answers 0 to the read-back. -/
theorem test_digWr_contention :
    txOf (step (frameOpen [0x44, 0x57, 0x30, 0x37, 0x30, 0x30, 0x31] [numberAnswer true 0, numberAnswer false 0])) =
      [0x64, 0x65, 0x76, 0x25, 0x37, 0x25, 0x30, 0x0A] ∧
    callsOf (step (frameOpen [0x44, 0x57, 0x30, 0x37, 0x30, 0x30, 0x31] [numberAnswer true 0, numberAnswer false 0])) = [.digitalWrite 7 true, .digitalRead 7] := by decide
/-- M1. -/
theorem test_modeIn_reply :
    txOf (step (frameOpen [0x4D, 0x49, 0x30, 0x35, 0x30, 0x30, 0x30] [modeAnswer .out])) =
      [0x64, 0x65, 0x76, 0x25, 0x35, 0x25, 0x30, 0x0A] ∧
    callsOf (step (frameOpen [0x4D, 0x49, 0x30, 0x35, 0x30, 0x30, 0x30] [modeAnswer .out])) = [.pinMode 5 .inp] := by decide
/-- M2. -/
theorem test_modePu_reply :
    txOf (step (frameOpen [0x4D, 0x50, 0x30, 0x35, 0x30, 0x30, 0x30] [modeAnswer .out])) =
      [0x64, 0x65, 0x76, 0x25, 0x35, 0x25, 0x32, 0x0A] ∧
    callsOf (step (frameOpen [0x4D, 0x50, 0x30, 0x35, 0x30, 0x30, 0x30] [modeAnswer .out])) = [.pinMode 5 .inpPullup] := by decide
/-- M7: the value field is ignored. -/
theorem test_modeOut_ignores_value :
    txOf (step (frameOpen [0x4D, 0x4F, 0x30, 0x35, 0x31, 0x32, 0x33] [modeAnswer .inp])) =
      [0x64, 0x65, 0x76, 0x25, 0x35, 0x25, 0x31, 0x0A] ∧
    callsOf (step (frameOpen [0x4D, 0x4F, 0x30, 0x35, 0x31, 0x32, 0x33] [modeAnswer .inp])) = [.pinMode 5 .out] := by decide
/-- M6: the third mode. -/
theorem test_modeRd_pullup :
    txOf (step (frameOpen [0x4D, 0x52, 0x30, 0x35, 0x30, 0x30, 0x30] [modeAnswer .inpPullup])) =
      [0x64, 0x65, 0x76, 0x25, 0x35, 0x25, 0x32, 0x0A] ∧
    callsOf (step (frameOpen [0x4D, 0x52, 0x30, 0x35, 0x30, 0x30, 0x30] [modeAnswer .inpPullup])) = [.readMode 5] := by decide
/-- W3: `wR02003` at -3.25: index, temperature; fmt_real is open, so the token stays symbolic. -/
theorem test_owTemp_reply : ∃ t,
    exec (.owTemp 0x52 2 3) { t0 with answers := [readings (.rational (-13 / 4)) .nan] } = .next t ∧
    t.trace = sent [0x64, 0x65, 0x76, 0x25, 0x32, 0x25] ++ [.called (.owReadTempC 2 3 9), .returned (.owReadTempC 2 3 9)] ++
      sent ([0x33, 0x25] ++ fmtReal [0x0A] ((-13 / 4 : ℚ) : ℝ) ++ [0x0A]) := ⟨_, rfl, by rfl⟩
/-- W2: `W002000` acts as `w002000`. -/
theorem test_owTempU_acts_as_owTemp :
    execOwTempU 0x30 2 0 { t0 with answers := [readings (.rational (43 / 2)) .nan] } =
    execOwTemp 0x30 2 0 { t0 with answers := [readings (.rational (43 / 2)) .nan] } := by rfl
/-- H5: `SR04022` at (60.25, -5.0): humidity, colon, temperature in one token. -/
theorem test_dhtRd_reply : ∃ t,
    exec (.dhtRd 0x52 4 22) { t0 with answers := [readings (.rational (241 / 4)) (.rational (-5))] } = .next t ∧
    t.trace = sent [0x64, 0x65, 0x76, 0x25, 0x34, 0x25] ++ [.called (.dhtRead 4 22), .returned (.dhtRead 4 22)] ++
      sent (fmtReal [0x0A] ((241 / 4 : ℚ) : ℝ) ++ [0x3A] ++ fmtReal [0x0A] ((-5 : ℚ) : ℝ) ++ [0x0A]) := ⟨_, rfl, by rfl⟩
/-- H3: one good and one bad reading is a failure. -/
theorem test_dhtRd_one_bad_reading :
    txOf (step (frameOpen [0x53, 0x30, 0x31, 0x34, 0x30, 0x30, 0x32] [readings (.rational 45) .nan])) =
      [0x64, 0x65, 0x76, 0x25, 0x31, 0x34, 0x25, 0x46, 0x61, 0x69, 0x6C, 0x65, 0x64, 0x20, 0x74, 0x6F, 0x20, 0x72, 0x65, 0x61, 0x64, 0x20, 0x66, 0x72, 0x6F, 0x6D, 0x20, 0x44, 0x48, 0x54, 0x20, 0x73, 0x65, 0x6E, 0x73, 0x6F, 0x72, 0x21, 0x0A] ∧
    callsOf (step (frameOpen [0x53, 0x30, 0x31, 0x34, 0x30, 0x30, 0x32] [readings (.rational 45) .nan])) = [.dhtRead 14 2] := by decide

/-! ### Records that are no command -/

/-- S3: six bytes give the diagnostic and nothing else. -/
theorem test_short_record :
    txOf (step (frameOpen [0x7A, 0x7A, 0x30, 0x30, 0x30, 0x30] [])) =
      [0x45, 0x52, 0x52, 0x3A, 0x7A, 0x7A, 0x30, 0x30, 0x30, 0x30, 0x0A] ∧
    callsOf (step (frameOpen [0x7A, 0x7A, 0x30, 0x30, 0x30, 0x30] [])) = [] := by decide
/-- U1: the preamble without a line break. -/
theorem test_unrecognised_command :
    txOf (step (frameOpen [0x51, 0x78, 0x31, 0x32, 0x33, 0x34, 0x35] [])) =
      [0x64, 0x65, 0x76, 0x25, 0x31, 0x32, 0x25] ∧
    callsOf (step (frameOpen [0x51, 0x78, 0x31, 0x32, 0x33, 0x34, 0x35] [])) = [] := by decide
/-- U3: no pin token under `z`. -/
theorem test_unrecognised_z_operation :
    txOf (step (frameOpen [0x7A, 0x71, 0x30, 0x30, 0x30, 0x30, 0x30] [])) =
      [0x64, 0x65, 0x76, 0x25] ∧
    callsOf (step (frameOpen [0x7A, 0x71, 0x30, 0x30, 0x30, 0x30, 0x30] [])) = [] := by decide

/-! ### The frame decoder, reset and the hang -/

/-- X14: with RAW_MAX = 8 the eighth byte closes the record, and a later `<` opens a frame: the records of R131. -/
theorem test_frames_full :
    frames (some 8) none (rxBytes [0x3C, 0x7A, 0x76, 0x30, 0x30, 0x30, 0x30, 0x30, 0x30, 0x3C, 0x7A, 0x76, 0x30, 0x30, 0x30, 0x30, 0x30, 0x3E]) =
      [[0x7A, 0x76, 0x30, 0x30, 0x30, 0x30, 0x30, 0x30], [0x7A, 0x76, 0x30, 0x30, 0x30, 0x30, 0x30]] := by decide
/-- X9: a boundary splits a frame, the tail is noise. -/
theorem test_frames_boundary :
    frames none none (rxBytes [0x3C, 0x7A, 0x76, 0x30] ++ [.boundary] ++ rxBytes [0x30, 0x30, 0x30, 0x30, 0x3E]) = [[0x7A, 0x76, 0x30]] := by decide
/-- X12: the step that fills RAW (RAW_MAX = 8) writes the diagnostic and scans. -/
theorem test_full_step :
    txOf (step { t0 with ph := .collect, raw := [0x7A, 0x76, 0x30, 0x30, 0x30, 0x30, 0x30], rx := rxBytes [0x30], cfg := { t0Cfg with rawMax := some 8 } }) =
      [0x45, 0x52, 0x52, 0x3A, 0x7A, 0x76, 0x30, 0x30, 0x30, 0x30, 0x30, 0x30, 0x0A] := by decide
/-- X4 in one step: `<` in an open frame is data. -/
theorem test_start_inside_frame :
    step { t0 with ph := .collect, raw := [], rx := rxBytes [0x3C] } = .next { t0 with ph := .collect, raw := [0x3C] } := by rfl
/-- T3: a DHT read that never returns: the preamble, the call made, EXEC. -/
theorem test_silent_sensor :
    txOf (step (frameOpen [0x53, 0x30, 0x31, 0x34, 0x30, 0x30, 0x32] [])) = [0x64, 0x65, 0x76, 0x25, 0x31, 0x34, 0x25] ∧
    phaseOf (step (frameOpen [0x53, 0x30, 0x31, 0x34, 0x30, 0x30, 0x32] [])) = .exec ∧
    callsOf (step (frameOpen [0x53, 0x30, 0x31, 0x34, 0x30, 0x30, 0x32] [])) = [.dhtRead 14 2] := by decide
/-- T2: a reset in a frame loses RAW and writes nothing. -/
theorem test_reset_in_frame :
    step { t0 with ph := .collect, raw := [0x7A, 0x76, 0x30, 0x30], outside := [.reset] } = .next t0 := by rfl
/-- R262: a reset after the whole preamble of `DW07001` (six bytes), before the first call: the preamble stays, no call is made. -/
theorem test_reset_before_first_call :
    txOf (step { frameOpen [0x44, 0x57, 0x30, 0x37, 0x30, 0x30, 0x31] [numberAnswer true 0, numberAnswer true 0] with resetIn := some 6 }) = [0x64, 0x65, 0x76, 0x25, 0x37, 0x25] ∧
    callsOf (step { frameOpen [0x44, 0x57, 0x30, 0x37, 0x30, 0x30, 0x31] [numberAnswer true 0, numberAnswer true 0] with resetIn := some 6 }) = [] ∧
    phaseOf (step { frameOpen [0x44, 0x57, 0x30, 0x37, 0x30, 0x30, 0x31] [numberAnswer true 0, numberAnswer true 0] with resetIn := some 6 }) = .scan := by
  decide
/-- R262: a reset after DIG.WR's write has returned (eight events), before its read-back: the write is the only call. -/
theorem test_reset_before_read_back :
    callsOf (step { frameOpen [0x44, 0x57, 0x30, 0x37, 0x30, 0x30, 0x31] [numberAnswer true 0, numberAnswer true 0] with resetIn := some 8 }) =
      [.digitalWrite 7 true] ∧
    txOf (step { frameOpen [0x44, 0x57, 0x30, 0x37, 0x30, 0x30, 0x31] [numberAnswer true 0, numberAnswer true 0] with resetIn := some 8 }) = [0x64, 0x65, 0x76, 0x25, 0x37, 0x25] ∧
    phaseOf (step { frameOpen [0x44, 0x57, 0x30, 0x37, 0x30, 0x30, 0x31] [numberAnswer true 0, numberAnswer true 0] with resetIn := some 8 }) = .scan := by
  decide
/-- R5, R216: where EOL holds the digit 0, the byte that stands in for an empty text is another one. -/
theorem test_byteOutside : byteOutside [0x25, 0x3A, 0x30, 0x00] = [0x01] := by decide
/-- T1: after reset, without input, the block idles. -/
theorem test_reset_idles : step State.reset = .next State.reset := by rfl
/-- A word of the opcode table runs as the first instruction after reset: `DW07001` is exec of DIG.WR 7, 1. -/
theorem test_first_instruction_after_reset :
    step (State.reset.withFetchWord 56 0x44573037303031) =
      exec (.digWr 7 1) { State.reset with ph := .collect, raw := [0x44, 0x57, 0x30, 0x37, 0x30, 0x30, 0x31], cmd := 0x44, op := 0x57, pin := 7, val := 1 } := by rfl
/-! ### Witnesses: for each obligation with hypotheses, what meets them (all clauses, at the bounds of their ranges) -/

/-- T0 with a transport that takes `n` bytes. -/
def t0Room (n : Nat) : State := { t0 with room := some n }

/-- T0 with these answers at hand. -/
def t0Answers (as : List Answer) : State := { t0 with answers := as }

theorem witness_DecodeOfEncodeIsIdentity :
    (Instr.anaWr 99 999).wellFormed = true ∧ (Instr.sysMem 0 0).wellFormed = true ∧ (Instr.owTemp 0x3D 99 999).wellFormed = true ∧
    (Instr.dhtRd 0x3F 0 0).wellFormed = true := by decide
theorem witness_DecodedCommandIsWellFormed :
    (0x3E#8 ∉ ([0x41, 0x57, 0x39, 0x39, 0x39, 0x39, 0x39] : List Byte) ∧ decode [0x41, 0x57, 0x39, 0x39, 0x39, 0x39, 0x39] = .command (.anaWr 99 999)) ∧
    (0x3E#8 ∉ ([0x53, 0x3F, 0x78, 0x78, 0x78, 0x78, 0x78] : List Byte) ∧ decode [0x53, 0x3F, 0x78, 0x78, 0x78, 0x78, 0x78] = .command (.dhtRd 0x3F 0 0)) := by decide
theorem witness_FrameWordMatchesItsRow :
    ((0xFFFF0000000000, 0x4D520000000000) : FrameWord × FrameWord) ∈ tableRows ∧
    (0x4D523939393939 : FrameWord) &&& 0xFFFF0000000000 = 0x4D520000000000 ∧
    decode (frameBytes 0x4D523939393939) = .command (.modeRd 99 999) ∧ rowOf (.modeRd 99 999) = (0xFFFF0000000000, 0x4D520000000000) := by
  decide
theorem witness_ParseDecIsDecimalOrZero :
    isDigit 0x30 = true ∧ isDigit 0x39 = true ∧ isDigit 0x2F = false ∧ isDigit 0x3A = false ∧
    (∃ b ∈ ([0x31, 0x3A] : List Byte), isDigit b = false) := by decide
theorem witness_FieldsOfSevenBytes :
    fieldsOf [0x7A, 0x7A, 0x30, 0x30, 0x30, 0x30] = none ∧ fieldsOf [0x7A, 0x7A, 0x30, 0x30, 0x30, 0x30, 0x30, 0x30] = none ∧ (fieldsOf [0x7A, 0x7A, 0x30, 0x30, 0x30, 0x30, 0x30]).isSome = true := by decide
theorem witness_SelectionTable :
    (0x79#8 ∉ [0x7A#8, 0x41#8, 0x44#8, 0x4D#8, 0x77#8, 0x57#8, 0x53#8]) ∧ (0x77#8 ∉ [0x7A#8, 0x76#8]) ∧
    (0x56#8 ∉ [0x52#8, 0x57#8]) ∧ (0x51#8 ∉ [0x49#8, 0x50#8, 0x4F#8, 0x52#8]) := by decide
theorem witness_StartDelimiterOpensFrame : ∃ (s : State) (rest : List RxEvent),
    s.ph = .scan ∧ s.Quiet ∧ s.rx = .byte 0x3C#8 :: rest :=
  ⟨{ t0 with rx := rxBytes [0x3C, 0x3C] }, rxBytes [0x3C], rfl, ⟨rfl, rfl⟩, rfl⟩
theorem witness_NoiseIsDropped : ∃ (s : State) (b : Byte) (rest : List RxEvent),
    s.ph = .scan ∧ s.Quiet ∧ s.rx = .byte b :: rest ∧ b ≠ 0x3C#8 :=
  ⟨{ t0 with rx := rxBytes [0x3E] }, 0x3E, [], rfl, ⟨rfl, rfl⟩, rfl, by decide⟩
theorem witness_InteriorByteIsAppended : ∃ (s : State) (b : Byte) (rest : List RxEvent),
    s.ph = .collect ∧ s.Quiet ∧ s.rx = .byte b :: rest ∧ b ≠ 0x3E#8 ∧ s.cfg.rawMax ≠ some (s.raw.length + 1) :=
  ⟨{ t0 with ph := .collect, raw := [0x7A, 0x76, 0x30, 0x30, 0x30, 0x30], rx := rxBytes [0x3C], cfg := { t0Cfg with rawMax := some 8 } }, 0x3C, [],
   rfl, ⟨rfl, rfl⟩, rfl, by decide, by decide⟩
theorem witness_WrongLengthIsReportedOnce_end : ∃ (s : State) (e : RxEvent) (rest : List RxEvent),
    s.ph = .collect ∧ s.outside = [] ∧ s.Flows ∧ s.rx = e :: rest ∧ (e = .byte 0x3E#8 ∨ e = .boundary) ∧ s.raw.length ≠ 7 :=
  ⟨frameOpen [0x7A, 0x7A, 0x30, 0x30, 0x30, 0x30] [], .byte 0x3E, [], rfl, rfl, ⟨rfl, rfl⟩, rfl, .inl rfl, by decide⟩
theorem witness_WrongLengthIsReportedOnce_boundary : ∃ (s : State) (e : RxEvent) (rest : List RxEvent),
    s.ph = .collect ∧ s.outside = [] ∧ s.Flows ∧ s.rx = e :: rest ∧ (e = .byte 0x3E#8 ∨ e = .boundary) ∧ s.raw.length ≠ 7 :=
  ⟨{ t0 with ph := .collect, raw := [0x7A, 0x76, 0x30, 0x30, 0x30, 0x30, 0x30, 0x30], rx := [.boundary] }, .boundary, [], rfl, rfl, ⟨rfl, rfl⟩, rfl, .inr rfl, by decide⟩
theorem witness_FullBufferClosesRecord : ∃ (s : State) (b : Byte) (rest : List RxEvent) (n : Nat),
    s.ph = .collect ∧ s.outside = [] ∧ s.Flows ∧ s.rx = .byte b :: rest ∧ b ≠ 0x3E#8 ∧ s.cfg.rawMax = some n ∧ 8 ≤ n ∧
    s.raw.length + 1 = n :=
  ⟨{ t0 with ph := .collect, raw := [0x7A, 0x76, 0x30, 0x30, 0x30, 0x30, 0x30], rx := rxBytes [0x30], cfg := { t0Cfg with rawMax := some 8 } }, 0x30, [], 8,
   rfl, rfl, ⟨rfl, rfl⟩, rfl, by decide, rfl, by decide, rfl⟩
theorem witness_IdlePollChangesNothing :
    t0.Idle ∧ State.Idle { t0 with ph := .collect, raw := [0x44, 0x52, 0x31, 0x33] } ∧
    (∃ (s : State) (rest : List RxEvent), s.ph = .scan ∧ s.Quiet ∧ s.rx = .boundary :: rest) :=
  ⟨by decide, by decide, { t0 with rx := [.boundary] }, [], rfl, ⟨rfl, rfl⟩, rfl⟩
theorem witness_WholeFrameIsDispatched : ∃ (s : State) (b0 b1 b2 b3 b4 b5 b6 : Byte) (rest : List RxEvent),
    s.ph = .scan ∧ s.Quiet ∧ (∀ n ∈ s.cfg.rawMax, 8 ≤ n) ∧ 0x3E#8 ∉ [b0, b1, b2, b3, b4, b5, b6] ∧
    s.rx = .byte 0x3C#8 :: ([b0, b1, b2, b3, b4, b5, b6].map RxEvent.byte ++ .byte 0x3E#8 :: rest) :=
  ⟨{ t0 with rx := rxBytes [0x3C, 0x7A, 0x76, 0x30, 0x30, 0x30, 0x30, 0x30, 0x3E], cfg := { t0Cfg with rawMax := some 8 } },
   0x7A, 0x76, 0x30, 0x30, 0x30, 0x30, 0x30, [], rfl, ⟨rfl, rfl⟩, by decide, by decide, rfl⟩
theorem witness_WholeBadRecordIsReportedOnce : ∃ (s : State) (raw : List Byte) (rest : List RxEvent),
    s.ph = .scan ∧ s.outside = [] ∧ s.Flows ∧ (∀ n ∈ s.cfg.rawMax, raw.length < n) ∧ raw.length ≠ 7 ∧ 0x3E#8 ∉ raw ∧
    s.rx = .byte 0x3C#8 :: (raw.map RxEvent.byte ++ .byte 0x3E#8 :: rest) :=
  ⟨{ t0 with rx := rxBytes [0x3C, 0x3C, 0x7A, 0x76, 0x30, 0x30, 0x30, 0x30, 0x30, 0x3E], cfg := { t0Cfg with rawMax := some 9 } }, [0x3C, 0x7A, 0x76, 0x30, 0x30, 0x30, 0x30, 0x30], [],
   rfl, rfl, ⟨rfl, rfl⟩, by decide, by decide, by decide, rfl⟩
theorem witness_DecoderIsFramesFunction : ∃ s : State,
    s.ph = .scan ∧ s.outside = [] ∧ s.Flows ∧ s.answering = true ∧ s.rx = rxBytes [0x3C, 0x7A, 0x76, 0x30, 0x30, 0x30, 0x30, 0x30, 0x3E, 0x3C, 0x7A, 0x7A, 0x30, 0x30, 0x30, 0x30, 0x30, 0x3E] :=
  ⟨{ t0 with answering := true, rx := rxBytes [0x3C, 0x7A, 0x76, 0x30, 0x30, 0x30, 0x30, 0x30, 0x3E, 0x3C, 0x7A, 0x7A, 0x30, 0x30, 0x30, 0x30, 0x30, 0x3E] }, rfl, rfl, ⟨rfl, rfl⟩, rfl, rfl⟩
theorem witness_StepRunsDecodedCommand_end : ∃ (s : State) (e : RxEvent) (rest : List RxEvent) (i : Instr),
    s.ph = .collect ∧ s.outside = [] ∧ s.rx = e :: rest ∧ (e = .byte 0x3E#8 ∨ e = .boundary) ∧ decode s.raw = .command i :=
  ⟨frameOpen [0x41, 0x57, 0x39, 0x39, 0x39, 0x39, 0x39] [], .byte 0x3E, [], .anaWr 99 999, rfl, rfl, rfl, .inl rfl, by decide⟩
theorem witness_StepRunsDecodedCommand_boundary : ∃ (s : State) (e : RxEvent) (rest : List RxEvent) (i : Instr),
    s.ph = .collect ∧ s.outside = [] ∧ s.rx = e :: rest ∧ (e = .byte 0x3E#8 ∨ e = .boundary) ∧ decode s.raw = .command i :=
  ⟨{ t0 with ph := .collect, raw := [0x4D, 0x50, 0x30, 0x32, 0x30, 0x30, 0x30], rx := [.boundary] }, .boundary, [], .modePu 2 0, rfl, rfl, rfl, .inr rfl, by decide⟩
theorem witness_PlacedWordRunsNext : decodeTableWord 56 0x53303134303032 = some (.dhtRd 0x30 14 2) := by decide
theorem witness_UnrecognizedCommandWritesPreambleOnly : ∃ (s : State) (e : RxEvent) (rest : List RxEvent) (f : Fields),
    s.ph = .collect ∧ s.outside = [] ∧ s.Flows ∧ s.rx = e :: rest ∧ (e = .byte 0x3E#8 ∨ e = .boundary) ∧
    fieldsOf s.raw = some f ∧ f.cmd ∉ [0x7A#8, 0x41#8, 0x44#8, 0x4D#8, 0x77#8, 0x57#8, 0x53#8] :=
  ⟨frameOpen [0x51, 0x78, 0x31, 0x32, 0x33, 0x34, 0x35] [], .byte 0x3E, [], ⟨0x51, 0x78, 12, 345⟩, rfl, rfl, ⟨rfl, rfl⟩, rfl, .inl rfl, by decide, by decide⟩
theorem witness_UnrecognizedOperationWritesPreambleOnly_A : ∃ (s : State) (e : RxEvent) (rest : List RxEvent) (f : Fields),
    (s.ph = .collect ∧ s.outside = [] ∧ s.Flows ∧ s.rx = e :: rest ∧ (e = .byte 0x3E#8 ∨ e = .boundary) ∧
     fieldsOf s.raw = some f) ∧
    ((f.cmd = 0x41#8 ∨ f.cmd = 0x44#8) ∧ f.op ∉ [0x52#8, 0x57#8] ∨ f.cmd = 0x4D#8 ∧ f.op ∉ [0x49#8, 0x50#8, 0x4F#8, 0x52#8]) :=
  ⟨frameOpen [0x41, 0x72, 0x30, 0x35, 0x30, 0x30, 0x30] [], .byte 0x3E, [], ⟨0x41, 0x72, 5, 0⟩, by decide, by decide⟩
theorem witness_UnrecognizedOperationWritesPreambleOnly_D : ∃ (s : State) (e : RxEvent) (rest : List RxEvent) (f : Fields),
    (s.ph = .collect ∧ s.outside = [] ∧ s.Flows ∧ s.rx = e :: rest ∧ (e = .byte 0x3E#8 ∨ e = .boundary) ∧
     fieldsOf s.raw = some f) ∧
    ((f.cmd = 0x41#8 ∨ f.cmd = 0x44#8) ∧ f.op ∉ [0x52#8, 0x57#8] ∨ f.cmd = 0x4D#8 ∧ f.op ∉ [0x49#8, 0x50#8, 0x4F#8, 0x52#8]) :=
  ⟨frameOpen [0x44, 0x58, 0x30, 0x37, 0x30, 0x30, 0x31] [], .byte 0x3E, [], ⟨0x44, 0x58, 7, 1⟩, by decide, by decide⟩
theorem witness_UnrecognizedOperationWritesPreambleOnly_M : ∃ (s : State) (e : RxEvent) (rest : List RxEvent) (f : Fields),
    (s.ph = .collect ∧ s.outside = [] ∧ s.Flows ∧ s.rx = e :: rest ∧ (e = .byte 0x3E#8 ∨ e = .boundary) ∧
     fieldsOf s.raw = some f) ∧
    ((f.cmd = 0x41#8 ∨ f.cmd = 0x44#8) ∧ f.op ∉ [0x52#8, 0x57#8] ∨ f.cmd = 0x4D#8 ∧ f.op ∉ [0x49#8, 0x50#8, 0x4F#8, 0x52#8]) :=
  ⟨frameOpen [0x4D, 0x58, 0x30, 0x35, 0x30, 0x30, 0x30] [], .byte 0x3E, [], ⟨0x4D, 0x58, 5, 0⟩, by decide, by decide⟩
theorem witness_UnrecognizedOperationWritesPreambleOnly_z : ∃ (s : State) (e : RxEvent) (rest : List RxEvent) (f : Fields),
    (s.ph = .collect ∧ s.outside = [] ∧ s.Flows ∧ s.rx = e :: rest ∧ (e = .byte 0x3E#8 ∨ e = .boundary) ∧
     fieldsOf s.raw = some f) ∧ f.cmd = 0x7A#8 ∧ f.op ∉ [0x7A#8, 0x76#8] :=
  ⟨frameOpen [0x7A, 0x71, 0x30, 0x30, 0x30, 0x30, 0x30] [], .byte 0x3E, [], ⟨0x7A, 0x71, 0, 0⟩, by decide, by decide⟩
theorem witness_SysMemReportsFreeMemory : ∃ (s : State) (a : Answer), s.Flows ∧ s.nextAnswer = some a :=
  ⟨t0Answers [numberAnswer true 1023], numberAnswer true 1023, ⟨rfl, rfl⟩, rfl⟩
theorem witness_AnaRdReportsReading : ∃ (s : State) (a : Answer), s.Flows ∧ s.nextAnswer = some a :=
  ⟨t0Answers [numberAnswer true 1023], numberAnswer true 1023, ⟨rfl, rfl⟩, rfl⟩
theorem witness_DigRdReportsLevel : ∃ (s : State) (a : Answer), s.Flows ∧ s.nextAnswer = some a :=
  ⟨t0Answers [numberAnswer true 1023], numberAnswer true 1023, ⟨rfl, rfl⟩, rfl⟩
theorem witness_PinModeIsConfigured : ∃ (s : State) (a : Answer), s.Flows ∧ s.nextAnswer = some a :=
  ⟨t0Answers [numberAnswer true 1023], numberAnswer true 1023, ⟨rfl, rfl⟩, rfl⟩
theorem witness_ModeRdReportsModeRead : ∃ (s : State) (a : Answer), s.Flows ∧ s.nextAnswer = some a :=
  ⟨t0Answers [numberAnswer true 1023], numberAnswer true 1023, ⟨rfl, rfl⟩, rfl⟩
theorem witness_SysVerReportsVersion : t0.Flows := ⟨rfl, rfl⟩
theorem witness_AnaWrWritesPwmPinsOnly_pwm : ∃ (p : Nat) (s : State) (a : Answer),
    s.Flows ∧ p ∈ s.cfg.pwmSet ∧ s.nextAnswer = some a :=
  ⟨11, t0Answers [numberAnswer true 1023], numberAnswer true 1023, ⟨rfl, rfl⟩, by decide, rfl⟩
theorem witness_AnaWrWritesPwmPinsOnly_other : ∃ (p : Nat) (s : State), s.Flows ∧ p ∉ s.cfg.pwmSet := ⟨4, t0, ⟨rfl, rfl⟩, by decide⟩
theorem witness_NonPwmPinIsNeverWritten : ∃ (p v : Nat) (s t : State), p ∉ s.cfg.pwmSet ∧ exec (.anaWr p v) s = .next t :=
  ⟨0, 999, t0Room 3, _, by decide, rfl⟩
theorem witness_DigWrReportsLevelReadBack : ∃ (s : State) (a o : Answer),
    s.Flows ∧ s.nextAnswer = some a ∧ s.popAnswer.nextAnswer = some o :=
  ⟨t0Answers [numberAnswer true 1023, numberAnswer false 0], numberAnswer true 1023, numberAnswer false 0, ⟨rfl, rfl⟩, rfl, rfl⟩
theorem witness_OneWireReportsTemperature : ∃ (s : State) (a : Answer) (x : ℝ) (i j : Instr),
    s.Flows ∧ s.nextAnswer = some a ∧ a.first.value = some x ∧
    (i = .owTemp 0x3F 99 999 ∨ i = .owTempU 0x3F 99 999) ∧ (j = .owTemp 0x3F 99 999 ∨ j = .owTempU 0x3F 99 999) ∧ i ≠ j :=
  ⟨t0Answers [readings (.rational (-13 / 4)) .nan], readings (.rational (-13 / 4)) .nan, ((-13 / 4 : ℚ) : ℝ), .owTemp 0x3F 99 999, .owTempU 0x3F 99 999,
   ⟨rfl, rfl⟩, rfl, rfl, .inl rfl, .inr rfl, by decide⟩
theorem witness_OneWireNanTokenIsFree : ∃ (s : State) (a : Answer) (i j : Instr),
    s.Flows ∧ s.nextAnswer = some a ∧ a.first = .nan ∧
    (i = .owTemp 0 0 0 ∨ i = .owTempU 0 0 0) ∧ (j = .owTemp 0 0 0 ∨ j = .owTempU 0 0 0) ∧ i ≠ j :=
  ⟨t0Answers [readings .nan .nan], readings .nan .nan, .owTemp 0 0 0, .owTempU 0 0 0, ⟨rfl, rfl⟩, rfl, rfl, .inl rfl, .inr rfl, by decide⟩
theorem witness_DhtRdReportsReadingsOrFailure_numbers : ∃ (s : State) (a : Answer) (h t : ℝ),
    s.Flows ∧ s.nextAnswer = some a ∧ a.first.value = some h ∧ a.second.value = some t :=
  ⟨t0Answers [readings (.rational 45) (.rational (-5))], readings (.rational 45) (.rational (-5)), ((45 : ℚ) : ℝ), ((-5 : ℚ) : ℝ), ⟨rfl, rfl⟩, rfl, rfl, rfl⟩
theorem witness_DhtRdReportsReadingsOrFailure_humidity : ∃ (s : State) (a : Answer),
    s.Flows ∧ s.nextAnswer = some a ∧ (a.first = .nan ∨ a.second = .nan) :=
  ⟨t0Answers [readings .nan (.rational 5)], readings .nan (.rational 5), ⟨rfl, rfl⟩, rfl, .inl rfl⟩
theorem witness_DhtRdReportsReadingsOrFailure_temperature : ∃ (s : State) (a : Answer),
    s.Flows ∧ s.nextAnswer = some a ∧ (a.first = .nan ∨ a.second = .nan) :=
  ⟨t0Answers [readings (.rational 45) .nan], readings (.rational 45) .nan, ⟨rfl, rfl⟩, rfl, .inr rfl⟩
theorem witness_CommandFrame : ∃ (i : Instr) (s t : State), exec i s = .next t ∧
    (∀ op p v, i ≠ .owTemp op p v ∧ i ≠ .owTempU op p v) ∧ (∀ op p v, i ≠ .dhtRd op p v) :=
  ⟨.digWr 7 1, t0Room 9, _, rfl, by simp, by simp⟩
theorem witness_CommandFrame_sensors :
    (∃ s t : State, exec (.owTemp 0x52 2 3) s = .next t ∧ t.owOpen = true) ∧
    (∃ s t : State, exec (.dhtRd 0x52 4 22) s = .next t ∧ t.dhtOpen = true) :=
  ⟨⟨t0, _, rfl, rfl⟩, ⟨t0, _, rfl, rfl⟩⟩
theorem witness_SilentCollaboratorLeavesPreamble : ∃ (i j : Instr) (c d : Call) (s : State),
    firstCall s.cfg i = some c ∧ i.isSystem = true ∧ firstCall s.cfg j = some d ∧ j.isSystem = false ∧ s.Flows ∧
    s.nextAnswer = none :=
  ⟨.sysMem 0 0, .anaWr 3 999, .freeMemory, .analogWrite 3 999, t0, rfl, rfl, rfl, rfl, ⟨rfl, rfl⟩, rfl⟩
theorem witness_StalledPreambleMakesNoCall : ∃ (i : Instr) (n : Nat) (bytes : List Byte) (s : State),
    bytes = (if i.isSystem then idPreamble s.cfg else pinPreamble s.cfg i.pin) ∧ s.room = some n ∧ s.resetIn = none ∧ n < bytes.length :=
  ⟨.digRd 7 0, 5, [0x64, 0x65, 0x76, 0x25, 0x37, 0x25], t0Room 5, by decide, rfl, rfl, by decide⟩
theorem witness_StalledPreambleMakesNoCall_nothing : ∃ (i : Instr) (n : Nat) (bytes : List Byte) (s : State),
    bytes = (if i.isSystem then idPreamble s.cfg else pinPreamble s.cfg i.pin) ∧ s.room = some n ∧ s.resetIn = none ∧ n < bytes.length :=
  ⟨.sysVer 0 0, 0, [0x64, 0x65, 0x76, 0x25], t0Room 0, by decide, rfl, rfl, by decide⟩
theorem witness_BackPressureLosesNothing : ∃ (i : Instr) (s t u : State) (n : Nat),
    exec i { s with room := some n } = .next t ∧ exec i { s with room := none } = .next u ∧ t.trace ≠ u.trace :=
  ⟨.sysVer 0 0, t0, _, _, 5, rfl, rfl, by decide⟩
theorem witness_NumberTokensAreParseable : t0Cfg.ParseSafe ∧ t0Cfg.Valid ∧
    Cfg.Valid { t0Cfg with eol := [0x30, 0x0A] } := by
  refine ⟨by decide, ?_, ?_⟩ <;> exact ⟨by decide, by decide, by decide, by decide, by decide, ⟨0x01, by decide⟩, by decide⟩

/-- T0 stopped at a DHT read under way. -/
def t0Dht : State := { t0 with ph := .exec, dhtOpen := true, todo := [.await (.dhtRead 14 2) .dht] }

theorem witness_InvariantIsKept_scan : t0.Inv ∧ ∃ t, step t0 = .next t := by
  refine ⟨⟨by decide, by decide, by decide, by decide, by decide, by decide, by decide, by decide, by decide, by decide, by decide⟩, _, rfl⟩
theorem witness_InvariantIsKept_collect :
    State.Inv { t0 with ph := .collect, raw := [0x7A, 0x76, 0x30, 0x30, 0x30, 0x30, 0x30], pin := 99, val := 999, cfg := { t0Cfg with rawMax := some 8 } } := by
  refine ⟨by decide, by decide, by decide, by decide, by decide, by decide, by decide, by decide, by decide, by decide, by decide⟩
theorem witness_InvariantIsKept_exec : t0Dht.Inv := by
  refine ⟨by decide, by decide, by decide, by decide, by decide, by decide, by decide, by decide, by decide, by decide, by decide⟩
theorem witness_NoHandleOutsideExec : ∃ s t : State, s.Inv ∧ step s = .next t ∧ (t.ph = .scan ∨ t.ph = .collect) :=
  ⟨t0, _, witness_InvariantIsKept_scan.1, rfl, .inl rfl⟩
theorem witness_ConfigurationIsImmutable : ∃ s t : State, step s = .next t ∧ s ≠ t := ⟨frameOpen [0x7A, 0x76, 0x30, 0x30, 0x30, 0x30, 0x30] [], _, rfl, by decide⟩
theorem witness_OutputIsAppendOnly : ∃ s t : State, step s = .next t ∧ s.trace ≠ t.trace :=
  ⟨frameOpen [0x7A, 0x76, 0x30, 0x30, 0x30, 0x30, 0x30] [], _, rfl, by decide⟩
theorem witness_FieldsAreWrittenTogether : ∃ s t : State,
    step s = .next t ∧ s.resetIn = none ∧
    (∀ e rest, s.outside = e :: rest → e ≠ .reset ∧ ∀ n, e ≠ .resetIn n) ∧ t.fields ≠ s.fields :=
  ⟨frameOpen [0x44, 0x57, 0x30, 0x37, 0x30, 0x30, 0x31] [], _, rfl, rfl, by simp [frameOpen, t0, State.reset], by decide⟩
theorem witness_NothingIsConsumedInExec : ∃ s t : State, s.ph = .exec ∧ step s = .next t ∧ s.rx ≠ [] :=
  ⟨{ t0Dht with rx := rxBytes [0x3C] }, _, rfl, rfl, by decide⟩
theorem witness_HangIsForEver_call : t0Dht.Hung := by decide
theorem witness_HangIsForEver_transport : State.Hung { t0Room 0 with ph := .exec, todo := [.tx [0x25]] } := by decide
/-- T0 waiting at the write of DIG.WR, its read-back still to come. -/
def t0Write : State :=
  { t0 with ph := .exec, todo := [.await (.digitalWrite 7 true) .nothing, .call (.digitalRead 7) .level], outside := [.answer (numberAnswer true 0)] }

theorem witness_AnswerEndsTheWait_last : ∃ (s : State) (c : Call) (k : After) (a : Answer) (rest : List Outside),
    s.ph = .exec ∧ s.todo = [.await c k] ∧ s.nextAnswer = none ∧ s.Flows ∧ s.outside = .answer a :: rest :=
  ⟨{ t0Dht with outside := [.answer (readings .nan .nan)] }, .dhtRead 14 2, .dht, readings .nan .nan, [], rfl, rfl, rfl, ⟨rfl, rfl⟩, rfl⟩
theorem witness_AnswerEndsTheWait_bytes : ∃ (s : State) (c : Call) (k : After) (bytes : List Byte) (a : Answer) (rest : List Outside),
    s.ph = .exec ∧ s.todo = .await c k :: [.tx bytes] ∧ s.nextAnswer = none ∧ s.Flows ∧ s.outside = .answer a :: rest :=
  ⟨{ t0 with ph := .exec, todo := [.await (.analogWrite 9 128) .nothing, .tx [0x31, 0x32, 0x38, 0x0A]], outside := [.answer (numberAnswer true 0)] },
   .analogWrite 9 128, .nothing, [0x31, 0x32, 0x38, 0x0A], numberAnswer true 0, [], rfl, rfl, rfl, ⟨rfl, rfl⟩, rfl⟩
theorem witness_AnswerEndsTheWait_call : ∃ (s : State) (c d : Call) (k l : After) (a : Answer) (rest : List Outside),
    s.ph = .exec ∧ s.todo = .await c k :: [.call d l] ∧ s.nextAnswer = none ∧ s.Flows ∧ s.outside = .answer a :: rest :=
  ⟨t0Write, .digitalWrite 7 true, .digitalRead 7, .nothing, .level, numberAnswer true 0, [], rfl, rfl, rfl, ⟨rfl, rfl⟩, rfl⟩
theorem witness_ResetAtAnyTime : ∃ (s : State) (rest : List Outside), s.outside = .reset :: rest ∧ s.ph = .exec :=
  ⟨{ t0Dht with outside := [.reset] }, [], rfl, rfl⟩
theorem witness_NextReplyJoinsDanglingPreamble_command : ∃ (s t : State) (f : Fields) (raw : List Byte) (u : State),
    s.Flows ∧ unrecognized f.cmd f.op = true ∧ dispatch (s.writeFields f) = .next t ∧ rxClose { t with raw := raw } = .next u :=
  ⟨t0, _, ⟨0x51, 0x78, 12, 345⟩, [0x41, 0x57, 0x30, 0x39, 0x31, 0x32, 0x38], _, ⟨rfl, rfl⟩, by decide, rfl, rfl⟩
theorem witness_NextReplyJoinsDanglingPreamble_operation : ∃ (s t : State) (f : Fields) (raw : List Byte) (u : State),
    s.Flows ∧ unrecognized f.cmd f.op = true ∧ dispatch (s.writeFields f) = .next t ∧ rxClose { t with raw := raw } = .next u :=
  ⟨t0, _, ⟨0x7A, 0x71, 0, 0⟩, [0x7A, 0x7A, 0x30, 0x30, 0x30, 0x30], _, ⟨rfl, rfl⟩, by decide, rfl, rfl⟩
theorem witness_ResetStrikesAfterAnyEvent : ∃ (s t u : State) (n : Nat), s.outside = [] ∧ step { s with resetIn := none } = .next t ∧
    s.trace.length + n ≤ t.trace.length ∧ step { s with resetIn := some n } = .next u ∧ 6 ≤ n :=
  ⟨frameOpen [0x44, 0x57, 0x30, 0x37, 0x30, 0x30, 0x31] [numberAnswer true 0, numberAnswer true 0], _, _, 8, rfl, rfl, by decide, rfl, by decide⟩
end Sys2Proof.Tests
end

section
/-! PROOFS. Obligations O3, O4, O18, O38, O39, O41, O43 and O49: the rows of the opcode table, a placed word, the bytes of readings
and numerals, reset, and what every step does. -/

namespace Sys2Proof

/-! ### Decoded fields (R84 to R87) -/

/-- Reading further digits after a number `n` multiplies by ten a digit and adds less than the next power of ten. -/
theorem foldl_digits_lt (s : List Byte) (hs : s.all isDigit = true) (n : Nat) :
    s.foldl (fun n b => 10 * n + (b.toNat - 0x30)) n < (n + 1) * 10 ^ s.length := by
  induction s generalizing n with
  | nil => simp
  | cons b s ih =>
    simp only [List.all_cons, Bool.and_eq_true, isDigit, decide_eq_true_eq] at hs
    obtain ⟨⟨-, hb⟩, hrest⟩ := hs
    calc (b :: s).foldl (fun n b => 10 * n + (b.toNat - 0x30)) n
        < (10 * n + (b.toNat - 0x30) + 1) * 10 ^ s.length := ih hrest _
      _ ≤ ((n + 1) * 10) * 10 ^ s.length := Nat.mul_le_mul_right _ (by omega)
      _ = (n + 1) * 10 ^ (b :: s).length := by rw [List.length_cons, pow_succ]; ring

/-- A field of `k` bytes stands for a number of at most `k` digits. -/
theorem parseDec_lt (s : List Byte) : parseDec s < 10 ^ s.length := by
  unfold parseDec
  split
  · next hs => simpa using foldl_digits_lt s hs 0
  · positivity

/-- PIN and VAL of a record of seven bytes are in range (R84, R85). -/
theorem fieldsOf_ranges {raw : List Byte} {f : Fields} (h : fieldsOf raw = some f) : f.pin < 100 ∧ f.val < 1000 := by
  unfold fieldsOf at h
  split at h
  · next _ _ b2 b3 b4 b5 b6 =>
    cases h
    exact ⟨by simpa using parseDec_lt [b2, b3], by simpa using parseDec_lt [b4, b5, b6]⟩
  · cases h

/-! ### Selection and the rows of the opcode table (R90, R142) -/

/-- The command letter of a command (R90). -/
def Instr.cmdByte : Instr → Byte
  | .sysMem .. | .sysVer .. => Letter.z
  | .anaRd .. | .anaWr .. => Letter.A
  | .digRd .. | .digWr .. => Letter.D
  | .modeIn .. | .modePu .. | .modeOut .. | .modeRd .. => Letter.M
  | .owTemp .. => Letter.w
  | .owTempU .. => Letter.W
  | .dhtRd .. => Letter.S

/-- The operation letter of a command whose operation byte is examined (R95). -/
def Instr.opLetter : Instr → Option Byte
  | .sysMem .. => some Letter.z
  | .sysVer .. => some Letter.v
  | .anaRd .. | .digRd .. | .modeRd .. => some Letter.R
  | .anaWr .. | .digWr .. => some Letter.W
  | .modeIn .. => some Letter.I
  | .modePu .. => some Letter.P
  | .modeOut .. => some Letter.O
  | .owTemp .. | .owTempU .. | .dhtRd .. => none

/-- The command of the same row with the operands of a record. -/
def Instr.withOperands (f : Fields) : Instr → Instr
  | .sysMem _ _ => .sysMem f.pin f.val
  | .sysVer _ _ => .sysVer f.pin f.val
  | .anaRd _ _ => .anaRd f.pin f.val
  | .anaWr _ _ => .anaWr f.pin f.val
  | .digRd _ _ => .digRd f.pin f.val
  | .digWr _ _ => .digWr f.pin f.val
  | .modeIn _ _ => .modeIn f.pin f.val
  | .modePu _ _ => .modePu f.pin f.val
  | .modeOut _ _ => .modeOut f.pin f.val
  | .modeRd _ _ => .modeRd f.pin f.val
  | .owTemp _ _ _ => .owTemp f.op f.pin f.val
  | .owTempU _ _ _ => .owTempU f.op f.pin f.val
  | .dhtRd _ _ _ => .dhtRd f.op f.pin f.val

/-- A record whose letters are those of a row selects the row's command with the record's operands. -/
theorem select_of_letters (i : Instr) (f : Fields) (hc : f.cmd = i.cmdByte) (ho : ∀ o ∈ i.opLetter, f.op = o) :
    select f = .command (i.withOperands f) := by
  obtain ⟨c, o, p, v⟩ := f
  cases i <;> simp only [Instr.cmdByte, Instr.opLetter, Option.mem_def, Option.some.injEq, forall_eq'] at hc ho <;> subst hc
  case owTemp | owTempU | dhtRd => rfl
  all_goals subst ho; rfl

/-- A record selects only a command whose letters it has. -/
theorem letters_of_select {i : Instr} {f : Fields} (h : select f = .command i) :
    f.cmd = i.cmdByte ∧ ∀ o ∈ i.opLetter, f.op = o := by
  unfold select at h
  split_ifs at h <;> cases h
  all_goals simp_all [Instr.cmdByte, Instr.opLetter]

end Sys2Proof

namespace Sys2Proof.Machine

theorem rowOf_withOperands (f : Fields) (i : Instr) : rowOf (i.withOperands f) = rowOf i := by
  cases i <;> rfl

theorem rowOf_mem_tableRows (i : Instr) : rowOf i ∈ tableRows := by
  cases i <;> simp [tableRows, rowOf]

/-- A row's mask and match are made from its letters: the two examined bytes, or the command byte alone. -/
theorem rowOf_eq_letters (i : Instr) :
    rowOf i = i.opLetter.elim ((0xFF000000000000 : FrameWord), i.cmdByte.setWidth 56 <<< 48)
      (fun o => (0xFFFF0000000000, (i.cmdByte ++ o).setWidth 56 <<< 40)) := by
  cases i <;> simp [rowOf, Instr.opLetter, Instr.cmdByte]

/-- A frame word meets a command's row exactly if its first bytes are the command's letters. -/
theorem and_rowOf_iff (w : FrameWord) (i : Instr) :
    w &&& (rowOf i).1 = (rowOf i).2 ↔
      w.extractLsb' 48 8 = i.cmdByte ∧ ∀ o ∈ i.opLetter, w.extractLsb' 40 8 = o := by
  rw [rowOf_eq_letters]
  cases i.opLetter with
  | none => simpa using firstByte_iff w i.cmdByte
  | some o => simpa using firstTwoBytes_iff w i.cmdByte o

/-- Settles O3: a record selects a row's command exactly if it has the row's letters, and so does the row's mask. -/
theorem frameWordMatchesItsRow : Obligations.FrameWordMatchesItsRow := by
  unfold Obligations.FrameWordMatchesItsRow
  intro w r
  constructor
  · rintro ⟨i, hi, rfl⟩
    exact ⟨rowOf_mem_tableRows i, (and_rowOf_iff w i).2 (letters_of_select hi)⟩
  · rintro ⟨hr, hw⟩
    obtain ⟨i, -, rfl⟩ := List.mem_map.1 hr
    obtain ⟨hc, ho⟩ := (and_rowOf_iff w i).1 hw
    exact ⟨_, select_of_letters i _ hc ho, rowOf_withOperands _ i⟩

/-- Settles O4: each word is evaluated. -/
theorem knownWordsDecode : Obligations.KnownWordsDecode := by
  unfold Obligations.KnownWordsDecode
  decide

/-! ### Bytes of readings and numerals (R5, R215, R216) -/

theorem notMem_of_mem_keepOut {bad text : List Byte} {b : Byte} (h : b ∈ keepOut bad text) : b ∉ bad := by
  simpa using (List.mem_filter.1 h).2

/-- Where some byte is left, the byte outside is one of those left. -/
theorem byteOutside_spec {bad : List Byte} (h : ∃ b, b ∉ bad) : ∃ b, byteOutside bad = [b] ∧ b ∉ bad := by
  obtain ⟨b, hb⟩ := h
  have hmem : b ∈ (List.range 256).map (BitVec.ofNat 8) :=
    List.mem_map.2 ⟨b.toNat, List.mem_range.2 b.isLt, by simp⟩
  unfold byteOutside
  cases hf : ((List.range 256).map (BitVec.ofNat 8)).find? (fun b => !bad.contains b) with
  | none => simpa [hb] using List.find?_eq_none.1 hf b hmem
  | some c => exact ⟨c, rfl, by simpa using List.find?_some hf⟩

/-- A formatted reading is not empty and holds none of the bytes R5 excludes. -/
theorem fmtReal_spec {eol : List Byte} (h : ∃ b : Byte, b ∉ sepByte :: colonByte :: eol) (x : ℝ) :
    fmtReal eol x ≠ [] ∧ ∀ b ∈ fmtReal eol x, b ∉ sepByte :: colonByte :: eol := by
  unfold fmtReal
  split
  · obtain ⟨c, hc, hout⟩ := byteOutside_spec h
    simpa [hc] using hout
  · next b bs hk => exact ⟨by simp, fun c hc => notMem_of_mem_keepOut (hk ▸ hc)⟩

theorem isDigit_decDigit {n : Nat} (h : n < 10) : isDigit (decDigit n) = true := (digitByte_spec h).1

/-- A numeral is not empty and holds digits only, whatever the fuel of its recursion. -/
theorem decFuel_digits (fuel n : Nat) : decFuel fuel n ≠ [] ∧ ∀ b ∈ decFuel fuel n, isDigit b = true := by
  induction fuel generalizing n with
  | zero => simpa [decFuel] using isDigit_decDigit (Nat.mod_lt n (by decide))
  | succ fuel ih =>
    unfold decFuel
    split
    · next hn => simpa using isDigit_decDigit hn
    · refine ⟨by simp, fun b hb => ?_⟩
      rcases List.mem_append.1 hb with hb | hb
      · exact (ih _).2 b hb
      · exact List.mem_singleton.1 hb ▸ isDigit_decDigit (Nat.mod_lt n (by decide))

theorem ne_sepByte_of_isDigit {b : Byte} (h : isDigit b = true) : b ≠ sepByte := by
  rintro rfl
  exact absurd h (by decide)

/-- Settles O38: readings by the construction of `fmtReal`, numerals by the recursion of `dec`. -/
theorem numberTokensAreParseable : Obligations.NumberTokensAreParseable := by
  unfold Obligations.NumberTokensAreParseable
  constructor
  · rintro c ⟨-, -, -, -, -, hleft, -⟩ x
    obtain ⟨hne, hout⟩ := fmtReal_spec hleft x
    refine ⟨hne, fun b hb => ?_⟩
    simpa [sepByte, colonByte] using hout b hb
  · rintro c ⟨-, heol⟩ n
    obtain ⟨hne, hdig⟩ := decFuel_digits n n
    refine ⟨hne, fun b hb => ⟨hdig b hb, ne_sepByte_of_isDigit (hdig b hb), fun hmem => ?_⟩⟩
    simpa [hdig b hb] using (heol b hmem).2

/-! ### Reset (R35, R261) -/

/-- The board's configuration meets R5, whatever the open parameters are. -/
theorem boardCfg_valid : boardCfg.Valid := by
  refine ⟨fun b hb => ?_, fun b hb => ?_, fun p hp => ?_, ?_, by decide, ⟨0x01, by decide⟩, fun n hn => ?_⟩
  · simpa [sepByte, boardCfg] using notMem_of_mem_keepOut hb
  · simpa [sepByte, boardCfg] using notMem_of_mem_keepOut hb
  · exact List.mem_range.1 (List.mem_filter.1 hp).1
  · exact List.pairwise_lt_range.filter _
  · obtain ⟨m, -, rfl⟩ := Option.mem_map.1 hn
    exact Nat.le_add_right 8 m

/-- A reset of the block establishes the invariant. -/
theorem State.resetBlock_inv {s : State} (hcfg : s.cfg.Valid) (hns : s.struck = false) : s.resetBlock.Inv where
  cfg := hcfg
  pin := Nat.zero_lt_succ 99
  val := Nat.zero_lt_succ 999
  rawBytes := nofun
  rawRoom := nofun
  idleTodo _ := rfl
  execBlocked := nofun
  oneWire := rfl
  dht := rfl
  oneCall := nofun
  notStruck := hns

/-- Settles O41: the state at reset is its own reset, and the board's configuration meets R5. -/
theorem invariantHoldsAtReset : Obligations.InvariantHoldsAtReset :=
  State.resetBlock_inv (s := State.reset) boardCfg_valid rfl

/-- Settles O49: the fields have their reset values, and the board's configuration meets R5. -/
theorem resetState : Obligations.ResetState :=
  ⟨rfl, rfl, rfl, rfl, rfl, boardCfg_valid⟩

/-! ### What every step does (R11, R27) -/

/-- Settles O39: an action and a command always answer a next state, and a reset does. -/
theorem noFaultAndNoRefusal : Obligations.NoFaultAndNoRefusal := by
  unfold Obligations.NoFaultAndNoRefusal
  refine ⟨fun s => ?_, fun i s => ⟨_, exec_eq_cycleOf i s⟩⟩
  have strike_next : ∀ u, ∃ t, strikeAfter (act u) = .next t := by
    intro u
    obtain ⟨t, ht, -⟩ := act_next u
    exact ⟨t.strike, by rw [ht]; rfl⟩
  rcases step_cases s with ⟨-, h⟩ | ⟨_, -, h⟩ | ⟨_, _, -, -, h⟩
  · exact h ▸ strike_next _
  · exact ⟨_, h⟩
  · exact h ▸ strike_next _

@[simp] theorem State.hear_cfg (e : Outside) (s : State) : (s.hear e).cfg = s.cfg := by
  cases e <;> rfl

/-- Closing a record leaves CFG alone. -/
theorem rxClose_keeps_cfg {s t : State} (h : rxClose s = .next t) : t.cfg = s.cfg := by
  obtain ⟨ms, s', -, hclose, hs⟩ := rxClose_cases s
  cases hclose.symm.trans h
  rcases hs with rfl | ⟨f, -, rfl⟩ <;> simp [State.begin]

/-- An action leaves CFG alone. -/
theorem act_keeps_cfg {s t : State} (h : act s = .next t) : t.cfg = s.cfg := by
  rcases act_cases s with ⟨-, ha⟩ | ⟨-, -, ha⟩ | ⟨_, _, -, -, ha | ⟨-, ha⟩⟩ |
    ⟨_, _, -, -, ⟨_, -, -, -, ha⟩ | ⟨_, -, -, -, ha⟩ | ⟨-, ha⟩⟩ <;> rw [ha] at h
  case inr.inr.inr.inr.inl | inr.inr.inr.inr.inr =>
    have hcfg := rxClose_keeps_cfg h
    exact hcfg
  all_goals cases h; simp

/-- Settles O43: neither the environment, nor an action, nor a reset writes CFG. -/
theorem configurationIsImmutable : Obligations.ConfigurationIsImmutable := by
  unfold Obligations.ConfigurationIsImmutable
  intro s t h
  rcases step_cases s with ⟨-, hs⟩ | ⟨_, -, hs⟩ | ⟨e, rest, -, -, hs⟩ <;> rw [hs] at h
  · obtain ⟨u, hu, rfl⟩ := strikeAfter_eq_next h
    simpa using act_keeps_cfg hu
  · cases h; rfl
  · obtain ⟨u, hu, rfl⟩ := strikeAfter_eq_next h
    simpa using act_keeps_cfg hu

/-! ### A placed word (R124, R125) -/

/-- A step from a placed frame closes the record of the frame's bytes. -/
theorem step_placeFrame (bytes : List Byte) (s : State) :
    step (placeFrame bytes s) = rxClose { s with ph := .collect, raw := bytes, resetIn := none } := by
  have hact : step (placeFrame bytes s) =
      strikeAfter (act { placeFrame bytes s with outside := s.outside }) := rfl
  rw [hact, strikeAfter_act_of_none rfl]
  rfl

/-- A record that decodes to a command has fields, which select it. -/
theorem fieldsOf_of_decode {raw : List Byte} {i : Instr} (h : decode raw = .command i) :
    ∃ f, fieldsOf raw = some f ∧ select f = .command i := by
  unfold decode at h
  split at h
  · cases h
  · next f hf => exact ⟨f, hf, h⟩

/-- Closing a record whose fields select a command writes the field registers and runs the command. -/
theorem rxClose_of_select {s : State} {f : Fields} {i : Instr} (hf : fieldsOf s.raw = some f)
    (hi : select f = .command i) : rxClose s = exec i (s.writeFields f) := by
  have hfields : (s.writeFields f).fields = f := rfl
  simp [rxClose, hf, dispatch, hfields, hi]

theorem decode_of_decodeTableWord {n w : Nat} {i : Instr} (h : decodeTableWord n w = some i) :
    decode (tableBytes n w) = .command i := by
  unfold decodeTableWord at h
  split_ifs at h
  cases hd : decode (tableBytes n w) with
  | command j => simpa [hd, Decoded.command?] using h
  | rejected e => simp [hd, Decoded.command?] at h

/-- Settles O18: the step closes the placed record, whose fields select the command. -/
theorem placedWordRunsNext : Obligations.PlacedWordRunsNext := by
  unfold Obligations.PlacedWordRunsNext
  intro s w i h
  obtain ⟨f, hf, hi⟩ := fieldsOf_of_decode (decode_of_decodeTableWord h)
  refine ⟨f, hf, ?_⟩
  rw [State.withFetchWord, step_placeFrame, rxClose_of_select hf hi]
  rfl

end Sys2Proof.Machine
end

section
/-! PROOFS. Obligation O40, the invariant of Safety.lean over one step, in three stages: what the environment does keeps `State.Sound`,
an action leads from it to `State.Acted`, and the reset that may fall due restores `State.Inv`. -/

namespace Sys2Proof.Machine

/-! ### Handles and the lines left to do (R30, R51) -/

/-- The handles are open exactly for the call the lines wait at, and no line behind the first is a call already made: what
`State.Inv` says of them, for the lines a cycle has still to run. -/
structure HandlesFit (owOpen dhtOpen : Bool) (ms : List Micro) : Prop where
  oneWire : owOpen = awaitsOneWire ms
  dht : dhtOpen = awaitsDht ms
  oneCall : ∀ m ∈ ms.tail, m.isAwait = false

/-- Closed handles fit lines without an outstanding call. -/
theorem HandlesFit.of_noAwait {ms : List Micro} (h : ∀ m ∈ ms, m.isAwait = false) : HandlesFit false false ms := by
  refine ⟨?_, ?_, fun m hm => h m (List.mem_of_mem_tail hm)⟩ <;>
  · rcases ms with _ | ⟨_ | _ | _, rest⟩
    case cons.await => simp [Micro.isAwait] at h
    all_goals rfl

/-- Where the first line is no outstanding call, the handles are closed and so they fit the lines behind it. -/
theorem HandlesFit.tail {ow dht : Bool} {m : Micro} {rest : List Micro} (h : HandlesFit ow dht (m :: rest))
    (hm : m.isAwait = false) : HandlesFit ow dht rest := by
  have hclosed : HandlesFit false false (m :: rest) := .of_noAwait (List.forall_mem_cons.2 ⟨hm, h.oneCall⟩)
  rw [h.oneWire, h.dht, ← hclosed.oneWire, ← hclosed.dht]
  exact .of_noAwait h.oneCall

/-- Making a call opens its handle. -/
theorem HandlesFit.issue {ow dht : Bool} {c : Call} {k : After} {rest : List Micro}
    (h : HandlesFit ow dht (.call c k :: rest)) :
    HandlesFit (ow || c.usesOneWire) (dht || c.usesDht) (.await c k :: rest) where
  oneWire := by rw [h.oneWire]; rfl
  dht := by rw [h.dht]; rfl
  oneCall := h.oneCall

/-- The return of a call closes its handle, before its payload is written. -/
theorem HandlesFit.settle {ow dht : Bool} {c : Call} {k : After} {rest : List Micro}
    (h : HandlesFit ow dht (.await c k :: rest)) (bs : List Byte) :
    HandlesFit (ow && !c.usesOneWire) (dht && !c.usesDht) (.tx bs :: rest) := by
  have how : ow = c.usesOneWire := h.oneWire
  have hdht : dht = c.usesDht := h.dht
  rw [how, hdht, Bool.and_not_self, Bool.and_not_self]
  exact .of_noAwait (List.forall_mem_cons.2 ⟨rfl, h.oneCall⟩)

/-! ### Where a dispatch cycle stops (R141, R145, R277) -/

/-- What a cycle leaves behind: it has ended, or it is stopped in EXEC at a collaborator unless a reset falls due; the handles fit
the lines left. -/
structure State.Stopped (s : State) : Prop where
  fits : HandlesFit s.owOpen s.dhtOpen s.todo
  place : s.ph = .scan ∧ s.todo = [] ∨ s.ph = .exec ∧ (s.struck = false → s.blocked = true)

/-- Tx ends where the rest of the cycle ends, or stops at a transport that takes no more. -/
theorem State.sendThen_stopped {s : State} {bs : List Byte} {rest : List Micro} {go : State → State}
    (hgo : ∀ t : State, t.ph = .exec → HandlesFit t.owOpen t.dhtOpen rest → (go t).Stopped)
    (hph : s.ph = .exec) (hfit : HandlesFit s.owOpen s.dhtOpen (.tx bs :: rest)) : (s.sendThen bs rest go).Stopped := by
  rcases s.sendThen_cases bs rest go with ⟨-, h⟩ | ⟨b, more, -, hstop, h⟩ <;> rw [h]
  · exact hgo _ hph (hfit.tail rfl)
  · refine ⟨⟨hfit.oneWire, hfit.dht, hfit.oneCall⟩, .inr ⟨hph, fun hns => ?_⟩⟩
    have hns : (s.emit bs).struck = false := hns
    simpa [State.blocked, hns] using hstop

/-- The wait for a call stays at the call, or closes its handle and goes on. -/
theorem State.awaitThen_stopped {s : State} {c : Call} {k : After} {rest : List Micro} {go : State → State}
    (hgo : ∀ t : State, t.ph = .exec → HandlesFit t.owOpen t.dhtOpen rest → (go t).Stopped)
    (hph : s.ph = .exec) (hfit : HandlesFit s.owOpen s.dhtOpen (.await c k :: rest)) : (s.awaitThen c k rest go).Stopped := by
  rcases s.awaitThen_cases c k rest go with ⟨hstop, h⟩ | ⟨a, -, -, h⟩ <;> rw [h]
  · refine ⟨hfit, .inr ⟨hph, fun hns => ?_⟩⟩
    have hns : s.struck = false := hns
    have hanswer : s.nextAnswer = none := by simpa [hns] using hstop
    exact Option.isNone_iff_eq_none.2 hanswer
  · exact State.sendThen_stopped hgo hph (hfit.settle _)

/-- A cycle whose lines fit the handles stops as `State.Stopped` says. -/
theorem run_stopped (ms : List Micro) :
    ∀ s : State, s.ph = .exec → HandlesFit s.owOpen s.dhtOpen ms → (run ms s).Stopped := by
  induction ms with
  | nil => exact fun s _ hfit => ⟨hfit, .inl ⟨rfl, rfl⟩⟩
  | cons m rest ih =>
    intro s hph hfit
    cases m with
    | tx bs => exact State.sendThen_stopped ih hph hfit
    | call c k =>
      show (s.callThen c k rest (run rest)).Stopped
      rcases s.callThen_cases c k rest (run rest) with ⟨hs, h⟩ | ⟨-, h⟩ <;> rw [h]
      · have hstruck : State.struck { s with todo := .call c k :: rest } = true := hs
        exact ⟨hfit, .inr ⟨hph, by simp [hstruck]⟩⟩
      · exact State.awaitThen_stopped ih hph hfit.issue
    | await c k => exact State.awaitThen_stopped ih hph hfit

/-! ### The stages of a step -/

/-- CFG meets R5, PIN and VAL are in range (R24, R25). -/
structure State.InRange (s : State) : Prop where
  cfg : s.cfg.Valid
  pin : s.pin < 100
  val : s.val < 1000

/-- The part of the invariant that holds whatever the environment has just done. -/
structure State.Sound (s : State) : Prop extends s.InRange where
  rawBytes : s.ph = .collect → endByte ∉ s.raw
  rawRoom : s.ph = .collect → ∀ n ∈ s.cfg.rawMax, s.raw.length < n
  idleTodo : s.ph ≠ .exec → s.todo = []
  fits : HandlesFit s.owOpen s.dhtOpen s.todo

/-- The invariant as an action leaves it, before a reset that falls due has struck. -/
structure State.Acted (s : State) : Prop extends s.Sound where
  execBlocked : s.ph = .exec → s.struck = false → s.blocked = true

theorem State.Inv.sound {s : State} (h : s.Inv) : s.Sound :=
  ⟨⟨h.cfg, h.pin, h.val⟩, h.rawBytes, h.rawRoom, h.idleTodo, ⟨h.oneWire, h.dht, h.oneCall⟩⟩

/-- The environment touches nothing `State.Sound` speaks of, but by a reset. -/
theorem State.Sound.hear {s : State} (h : s.Sound) (rest : List Outside) {e : Outside} (he : e ≠ .reset) :
    (State.hear e { s with outside := rest }).Sound := by
  obtain ⟨⟨hcfg, hpin, hval⟩, hbytes, hroom, hidle, hfit⟩ := h
  cases e with
  | reset => exact absurd rfl he
  | quiet | resetIn _ | deliver _ | answer _ | room _ => exact ⟨⟨hcfg, hpin, hval⟩, hbytes, hroom, hidle, hfit⟩

/-- RAW_MAX leaves room for a byte (R5). -/
theorem rawMax_pos_of_valid {c : Cfg} (h : c.Valid) : ∀ n ∈ c.rawMax, 0 < n := by
  obtain ⟨-, -, -, -, -, -, hmin⟩ := h
  exact fun n hn => Nat.lt_of_lt_of_le (by decide) (hmin n hn)

/-- A cycle started or resumed in EXEC. -/
theorem run_acted {ms : List Micro} {s : State} (h : s.InRange) (hph : s.ph = .exec)
    (hfit : HandlesFit s.owOpen s.dhtOpen ms) : (run ms s).Acted := by
  obtain ⟨hfits, hplace⟩ := run_stopped ms s hph hfit
  have hrange : (run ms s).InRange := ⟨by simpa using h.cfg, by simpa using h.pin, by simpa using h.val⟩
  rcases hplace with ⟨hp, htodo⟩ | ⟨hp, hblocked⟩
  · exact ⟨⟨hrange, by simp [hp], by simp [hp], fun _ => htodo, hfits⟩, by simp [hp]⟩
  · exact ⟨⟨hrange, by simp [hp], by simp [hp], by simp [hp], hfits⟩, fun _ => hblocked⟩

/-- The handling of a closed record, begun with closed handles. -/
theorem rxClose_acted {s t : State} (h : s.InRange) (hfit : HandlesFit s.owOpen s.dhtOpen []) (ht : rxClose s = .next t) :
    t.Acted := by
  obtain ⟨ms, s', hms, hclose, hs⟩ := rxClose_cases s
  cases hclose.symm.trans ht
  have how : s.owOpen = false := hfit.oneWire
  have hdht : s.dhtOpen = false := hfit.dht
  have hlines : HandlesFit s.owOpen s.dhtOpen ms := by
    rw [how, hdht]
    exact .of_noAwait hms
  rcases hs with rfl | ⟨f, hf, rfl⟩
  · exact run_acted ⟨h.cfg, h.pin, h.val⟩ rfl hlines
  · obtain ⟨hpin, hval⟩ := fieldsOf_ranges hf
    exact run_acted ⟨h.cfg, hpin, hval⟩ rfl hlines

/-- An action leads from a sound state to one that is sound and, in EXEC, stopped at a collaborator. -/
theorem act_acted {s t : State} (h : s.Sound) (ht : act s = .next t) : t.Acted := by
  obtain ⟨hrange, hbytes, hroom, hidle, hfit⟩ := h
  have ⟨hcfg, hpin, hval⟩ := hrange
  have hclose : s.ph = .collect → ∀ rx raw, rxClose { s with rx := rx, raw := raw } = .next t → t.Acted := by
    intro hp rx raw ht
    refine rxClose_acted ?_ ?_ ht
    · exact ⟨hcfg, hpin, hval⟩
    · exact hidle (by simp [hp]) ▸ hfit
  rcases act_cases s with ⟨hp, ha⟩ | ⟨hp, -, ha⟩ | ⟨e, es, -, hp, ha | ⟨-, ha⟩⟩ |
    ⟨e, es, -, hp, ⟨b, -, hb, hfull, ha⟩ | ⟨b, -, -, -, ha⟩ | ⟨-, ha⟩⟩ <;> rw [ha] at ht
  · cases ht
    exact run_acted hrange hp hfit
  · cases ht
    exact ⟨⟨hrange, hbytes, hroom, hidle, hfit⟩, fun he => absurd he hp⟩
  · cases ht
    exact ⟨⟨⟨hcfg, hpin, hval⟩, hbytes, hroom, hidle, hfit⟩, fun he => absurd (hp.symm.trans he) (by decide)⟩
  · cases ht
    exact ⟨⟨⟨hcfg, hpin, hval⟩, fun _ => List.not_mem_nil, fun _ => rawMax_pos_of_valid hcfg, fun _ => hidle (by simp [hp]), hfit⟩, nofun⟩
  · cases ht
    refine ⟨⟨⟨hcfg, hpin, hval⟩, fun _ => ?_, fun _ n hn => ?_, hidle, hfit⟩, fun he => absurd (hp.symm.trans he) (by decide)⟩
    · simpa [hbytes hp] using hb.symm
    · have hlt := hroom hp n hn
      have hne : n ≠ s.raw.length + 1 := by
        rintro rfl
        exact hfull hn
      simp only [List.length_append, List.length_singleton]
      omega
  · exact hclose hp _ _ ht
  · exact hclose hp _ _ ht

/-- Once a reset that falls due has struck, the invariant holds again. -/
theorem State.Acted.strike_inv {s : State} (h : s.Acted) : s.strike.Inv := by
  obtain ⟨⟨⟨hcfg, hpin, hval⟩, hbytes, hroom, hidle, how, hdht, hone⟩, hblocked⟩ := h
  rcases s.strike_cases with ⟨-, heq⟩ | ⟨hns, heq⟩ <;> rw [heq]
  · exact State.resetBlock_inv (s := { s with resetIn := none }) hcfg rfl
  · exact ⟨hcfg, hpin, hval, hbytes, hroom, hidle, fun hp => hblocked hp hns, how, hdht, hone, hns⟩

/-- Settles O40: a step is a reset, or an action from a sound state and the reset that falls due in it. -/
theorem invariantIsKept : Obligations.InvariantIsKept := by
  unfold Obligations.InvariantIsKept
  intro s t hinv hstep
  rcases step_cases s with ⟨-, hs⟩ | ⟨rest, -, hs⟩ | ⟨e, rest, -, he, hs⟩ <;> rw [hs] at hstep
  · obtain ⟨u, hu, rfl⟩ := strikeAfter_eq_next hstep
    exact (act_acted hinv.sound hu).strike_inv
  · cases hstep
    exact State.resetBlock_inv (s := { s with outside := rest }) hinv.cfg hinv.notStruck
  · obtain ⟨u, hu, rfl⟩ := strikeAfter_eq_next hstep
    exact (act_acted (hinv.sound.hear rest he) hu).strike_inv

end Sys2Proof.Machine
end

section
/-! PROOFS. Obligations O33, O42, O44, O45, O50 and O52: what a command and a step leave unchanged, and a reset that falls due inside
a step. -/

namespace Sys2Proof.Machine

/-! ### What a dispatch cycle shows (R29) -/

/-- A cycle takes nothing back that was shown to the outside. -/
theorem run_extends_trace (ms : List Micro) (s : State) : s.trace <+: (run ms s).trace :=
  run_reaches (fun t => s.trace <+: t.trace) (fun _ _ h => h.trans (List.prefix_append _ _))
    (fun _ _ h => h.trans (List.prefix_append _ _)) (fun _ _ h => h.trans (List.prefix_append _ _))
    (fun _ _ _ h => h) (fun _ h => h) (fun _ _ h => h) ms s (List.prefix_refl _)

/-! ### The handles a dispatch cycle touches (R30) -/

/-- The line is a call, still to be made or already made, of the given kind. -/
def Micro.isCallOf (kind : Call → Bool) : Micro → Bool
  | .tx _ => false
  | .call c _ | .await c _ => kind c

/-- `run_keeps` for what only calls of one kind change: lines without such a call leave it alone. -/
theorem run_keeps_of_no_call {α : Type} (f : State → α) (kind : Call → Bool)
    (hemit : ∀ bs s, f (State.emit bs s) = f s) (hissue : ∀ c s, kind c = false → f (State.issue c s) = f s)
    (hsettle : ∀ c s, kind c = false → f (State.settle c s) = f s) (hnote : ∀ k a s, f (State.noteDraw k a s) = f s)
    (hend : ∀ s, f (State.endCycle s) = f s) (htodo : ∀ (s : State) ms, f { s with todo := ms } = f s) :
    ∀ ms : List Micro, (∀ m ∈ ms, m.isCallOf kind = false) → ∀ s : State, f (run ms s) = f s := by
  have hsend : ∀ bs rest (go : State → State), (∀ s, f (go s) = f s) → ∀ s : State, f (s.sendThen bs rest go) = f s := by
    intro bs rest go hgo s
    rcases s.sendThen_cases bs rest go with ⟨-, h⟩ | ⟨b, more, -, -, h⟩
    · rw [h, hgo, hemit]
    · rw [h, htodo, hemit]
  have hawait : ∀ c k rest (go : State → State), kind c = false → (∀ s, f (go s) = f s) →
      ∀ s : State, f (s.awaitThen c k rest go) = f s := by
    intro c k rest go hc hgo s
    rcases s.awaitThen_cases c k rest go with ⟨-, h⟩ | ⟨a, -, -, h⟩
    · rw [h, htodo]
    · rw [h, hsend _ _ _ hgo, hnote, hsettle c s hc]
  intro ms
  induction ms with
  | nil => exact fun _ => hend
  | cons m rest ih =>
    intro hms s
    obtain ⟨hm, hrest⟩ := List.forall_mem_cons.1 hms
    cases m with
    | tx bs => exact hsend _ _ _ (ih hrest) s
    | call c k =>
      show f (s.callThen c k rest (run rest)) = f s
      rcases s.callThen_cases c k rest (run rest) with ⟨-, h⟩ | ⟨-, h⟩
      · rw [h, htodo]
      · rw [h, hawait c k rest _ hm (ih hrest), hissue c s hm]
    | await c k => exact hawait c k rest _ hm (ih hrest) s

theorem run_keeps_owOpen {ms : List Micro} (h : ∀ m ∈ ms, m.isCallOf Call.usesOneWire = false) (s : State) :
    (run ms s).owOpen = s.owOpen :=
  run_keeps_of_no_call State.owOpen Call.usesOneWire (by simp) (by simp_all) (by simp_all) (by simp) (by simp) (by simp) ms h s

theorem run_keeps_dhtOpen {ms : List Micro} (h : ∀ m ∈ ms, m.isCallOf Call.usesDht = false) (s : State) :
    (run ms s).dhtOpen = s.dhtOpen :=
  run_keeps_of_no_call State.dhtOpen Call.usesDht (by simp) (by simp_all) (by simp_all) (by simp) (by simp) (by simp) ms h s

/-- Only OW.TEMP and OW.TEMP.U make a one-wire call, and only DHT.RD a DHT call. -/
theorem cycleOf_isCallOf (cfg : Cfg) (i : Instr) : ∀ m ∈ cycleOf cfg i,
    (m.isCallOf Call.usesOneWire = true → ∃ op p v, i = .owTemp op p v ∨ i = .owTempU op p v) ∧
    (m.isCallOf Call.usesDht = true → ∃ op p v, i = .dhtRd op p v) := by
  cases i
  case anaWr p v =>
    rw [cycleOf]
    split <;> simp [Condition.handling, Micro.isCallOf, Call.usesOneWire, Call.usesDht]
  all_goals simp [cycleOf, Micro.isCallOf, Call.usesOneWire, Call.usesDht]

/-- Settles O33: a command is a run of its cycle's lines, which keeps the registers and extends the trace, and moves a handle only by
a call that uses it. -/
theorem commandFrame : Obligations.CommandFrame := by
  unfold Obligations.CommandFrame
  intro i s t h
  cases (exec_eq_cycleOf i s).symm.trans h
  refine ⟨run_keeps_raw .., run_keeps_cmd .., run_keeps_op .., run_keeps_pin .., run_keeps_val .., run_keeps_cfg .., run_keeps_rx ..,
    run_keeps_outside .., run_keeps_answering .., run_extends_trace _ { s with ph := .exec },
    fun hi => run_keeps_owOpen (fun m hm => ?_) _, fun hi => run_keeps_dhtOpen (fun m hm => ?_) _⟩
  · refine Bool.eq_false_iff.2 fun hcall => ?_
    obtain ⟨op, p, v, heq | heq⟩ := (cycleOf_isCallOf s.cfg i m hm).1 hcall
    · exact (hi op p v).1 heq
    · exact (hi op p v).2 heq
  · refine Bool.eq_false_iff.2 fun hcall => ?_
    obtain ⟨op, p, v, heq⟩ := (cycleOf_isCallOf s.cfg i m hm).2 hcall
    exact hi op p v heq

/-! ### Outside EXEC (R30, R283) -/

/-- Settles O42: the invariant holds after the step, and outside EXEC nothing is left to do that a handle could be open for. -/
theorem noHandleOutsideExec : Obligations.NoHandleOutsideExec := by
  unfold Obligations.NoHandleOutsideExec
  intro s t hinv hstep hph
  have ht : t.Inv := invariantIsKept s t hinv hstep
  have htodo : t.todo = [] := ht.idleTodo (by rcases hph with h | h <;> simp [h])
  have how := ht.oneWire
  have hdht := ht.dht
  rw [htodo] at how hdht
  exact ⟨how, hdht⟩

/-! ### The field registers (R26, R129) -/

@[simp] theorem run_keeps_fields (ms : List Micro) (s : State) : (run ms s).fields = s.fields := by
  simp [State.fields]

/-- Closing a record leaves the four field registers alone, or writes the four fields of RAW. -/
theorem rxClose_fields {s t : State} (h : rxClose s = .next t) : t.fields = s.fields ∨ fieldsOf t.raw = some t.fields := by
  obtain ⟨ms, s', -, hclose, hs⟩ := rxClose_cases s
  cases hclose.symm.trans h
  rcases hs with rfl | ⟨f, hf, rfl⟩
  · exact .inl (run_keeps_fields ..)
  · refine .inr ?_
    simp only [State.begin, run_keeps_raw, run_keeps_fields]
    exact hf

/-- An action writes the four field registers from the record it closes, or none of them. -/
theorem act_fields {s t : State} (h : act s = .next t) :
    t.fields = s.fields ∨ (s.ph = .collect ∧ fieldsOf t.raw = some t.fields) := by
  rcases act_cases s with ⟨-, ha⟩ | ⟨-, -, ha⟩ | ⟨_, _, -, -, ha | ⟨-, ha⟩⟩ |
    ⟨_, _, -, hp, ⟨_, -, -, -, ha⟩ | ⟨_, -, -, -, ha⟩ | ⟨-, ha⟩⟩ <;> rw [ha] at h
  case inr.inr.inr.inr.inl | inr.inr.inr.inr.inr => exact (rxClose_fields h).imp id (⟨hp, ·⟩)
  case inl => cases h; exact .inl (run_keeps_fields ..)
  all_goals cases h; exact .inl rfl

/-- What the environment does, other than a reset, touches neither the phase nor the field registers. -/
theorem State.hear_keeps_registers {e : Outside} (he : e ≠ .reset) (s : State) :
    (s.hear e).ph = s.ph ∧ (s.hear e).fields = s.fields := by
  cases e with
  | reset => exact absurd rfl he
  | quiet | resetIn _ | deliver _ | answer _ | room _ => exact ⟨rfl, rfl⟩

/-- A coming reset is as before where the environment announces none (log entry 17). -/
theorem State.hear_resetIn {e : Outside} (he : ∀ n, e ≠ .resetIn n) (s : State) : (s.hear e).resetIn = s.resetIn := by
  cases e with
  | resetIn n => exact absurd rfl (he n)
  | reset | quiet | deliver _ | answer _ | room _ => rfl

/-- Settles O45: where no reset comes a step is an action, after the environment has touched no register. -/
theorem fieldsAreWrittenTogether : Obligations.FieldsAreWrittenTogether := by
  unfold Obligations.FieldsAreWrittenTogether
  intro s t h hr hout
  rcases step_cases s with ⟨-, hs⟩ | ⟨rest, ho, -⟩ | ⟨e, rest, ho, he, hs⟩
  · rw [hs, strikeAfter_act_of_none hr] at h
    exact act_fields h
  · exact absurd rfl (hout _ rest ho).1
  · obtain ⟨hph, hfields⟩ := State.hear_keeps_registers he { s with outside := rest }
    have hnone : (State.hear e { s with outside := rest }).resetIn = none := (State.hear_resetIn (hout e rest ho).2 _).trans hr
    rw [hs, strikeAfter_act_of_none hnone] at h
    have hact := act_fields h
    rwa [hph, hfields] at hact

/-! ### An action, whatever reset is coming (R120, R141, R262) -/

/-- `s` with another reset coming, or with none. -/
def State.withReset (r : Option Nat) (s : State) : State := { s with resetIn := r }

section
variable (s : State) (r : Option Nat)

@[simp] theorem State.withReset_ph : (s.withReset r).ph = s.ph := rfl
@[simp] theorem State.withReset_raw : (s.withReset r).raw = s.raw := rfl
@[simp] theorem State.withReset_rx : (s.withReset r).rx = s.rx := rfl
@[simp] theorem State.withReset_trace : (s.withReset r).trace = s.trace := rfl
@[simp] theorem State.withReset_resetIn : (s.withReset r).resetIn = r := rfl
@[simp] theorem State.withReset_withReset (q : Option Nat) : (s.withReset q).withReset r = s.withReset r := rfl

end

/-- What an action does once it has polled the transport: it shows nothing, or it runs lines of a cycle. -/
def IsActing (f : State → State) : Prop := f = id ∨ ∃ ms, f = run ms

theorem IsActing.extends_trace {f : State → State} (h : IsActing f) (s : State) : s.trace <+: (f s).trace := by
  rcases h with rfl | ⟨ms, rfl⟩
  · exact List.prefix_refl _
  · exact run_extends_trace ms s

theorem IsActing.keeps_rx {f : State → State} (h : IsActing f) (s : State) : (f s).rx = s.rx := by
  rcases h with rfl | ⟨ms, rfl⟩
  · rfl
  · exact run_keeps_rx ms s

/-- `op` polls, then acts: what it does, and from which state, does not depend on a coming reset, and the poll shows nothing. -/
def ActsUniformly (op : State → Result) (s : State) : Prop :=
  ∃ f s', IsActing f ∧ State.trace s' = s.trace ∧ ∀ r, op (s.withReset r) = .next (f (s'.withReset r))

/-- Selection and its cycle, or the silent drop, read nothing of a coming reset. -/
theorem dispatch_uniform (s : State) : ActsUniformly dispatch s := by
  have hfields : ∀ r, (s.withReset r).fields = s.fields := fun _ => rfl
  have hrun : ∀ ms, (∀ r, dispatch (s.withReset r) = .next ((s.withReset r).begin ms)) → ActsUniformly dispatch s :=
    fun ms h => ⟨run ms, { s with ph := .exec }, .inr ⟨ms, rfl⟩, rfl, h⟩
  rcases hsel : select s.fields with i | _ | _ | _
  · exact hrun (cycleOf s.cfg i) fun r => by simp only [dispatch, hfields, hsel, exec_eq_cycleOf]; rfl
  · exact hrun (.tx [] :: (Condition.invalidFrame s.raw).handling s.cfg) fun r => by simp only [dispatch, hfields, hsel]; rfl
  · exact hrun (.tx (preamble s.cfg s.cmd s.pin) :: Condition.unrecognizedCommand.handling s.cfg) fun r => by
      simp only [dispatch, hfields, hsel]; rfl
  · exact hrun (.tx (preamble s.cfg s.cmd s.pin) :: Condition.unrecognizedOperation.handling s.cfg) fun r => by
      simp only [dispatch, hfields, hsel]; rfl

theorem rxClose_uniform (s : State) : ActsUniformly rxClose s := by
  cases hf : fieldsOf s.raw with
  | none =>
    exact ⟨run (.tx [] :: (Condition.invalidFrame s.raw).handling s.cfg), { s with ph := .exec }, .inr ⟨_, rfl⟩, rfl, fun r => by
      simp only [rxClose, State.withReset_raw, hf]; rfl⟩
  | some f =>
    obtain ⟨g, s', hg, htrace, h⟩ := dispatch_uniform (s.writeFields f)
    refine ⟨g, s', hg, htrace, fun r => ?_⟩
    simp only [rxClose, State.withReset_raw, hf]
    exact h r

theorem scanEvent_uniform (e : RxEvent) (s : State) : ActsUniformly (scanEvent e) s := by
  cases e with
  | boundary => exact ⟨id, s, .inl rfl, rfl, fun _ => rfl⟩
  | byte b =>
    by_cases hb : b = startByte
    · exact ⟨id, { s with raw := [], ph := .collect }, .inl rfl, rfl, fun _ => if_pos hb⟩
    · exact ⟨id, s, .inl rfl, rfl, fun _ => if_neg hb⟩

theorem collectEvent_uniform (e : RxEvent) (s : State) : ActsUniformly (collectEvent e) s := by
  cases e with
  | boundary => exact rxClose_uniform s
  | byte b =>
    by_cases hb : b = endByte
    · obtain ⟨f, s', hf, htrace, h⟩ := rxClose_uniform s
      exact ⟨f, s', hf, htrace, fun r => (if_pos hb).trans (h r)⟩
    · by_cases hfull : State.rawFull { s with raw := s.raw ++ [b] } = true
      · obtain ⟨f, s', hf, htrace, h⟩ := rxClose_uniform { s with raw := s.raw ++ [b] }
        exact ⟨f, s', hf, htrace, fun r => (if_neg hb).trans ((if_pos hfull).trans (h r))⟩
      · exact ⟨id, { s with raw := s.raw ++ [b] }, .inl rfl, rfl, fun _ => (if_neg hb).trans (if_neg hfull)⟩

theorem act_of_scan {s : State} {e : RxEvent} {es : List RxEvent} (hp : s.ph = .scan) (hr : s.rx = e :: es) :
    act s = scanEvent e { s with rx := es } := by
  simp [act, hp, hr]

theorem act_of_collect {s : State} {e : RxEvent} {es : List RxEvent} (hp : s.ph = .collect) (hr : s.rx = e :: es) :
    act s = collectEvent e { s with rx := es } := by
  simp [act, hp, hr]

theorem act_uniform (s : State) : ActsUniformly act s := by
  rcases hp : s.ph with _ | _ | _
  case exec => exact ⟨run s.todo, s, .inr ⟨_, rfl⟩, rfl, fun r => by simp only [act, State.withReset_ph, hp]; rfl⟩
  all_goals rcases hr : s.rx with _ | ⟨e, es⟩
  case scan.nil | collect.nil =>
    exact ⟨id, s, .inl rfl, rfl, fun r => by simp only [act, State.withReset_ph, State.withReset_rx, hp, hr]; rfl⟩
  case scan.cons =>
    obtain ⟨f, s', hf, htrace, h⟩ := scanEvent_uniform e { s with rx := es }
    exact ⟨f, s', hf, htrace, fun r => (act_of_scan (s := s.withReset r) hp hr).trans (h r)⟩
  case collect.cons =>
    obtain ⟨f, s', hf, htrace, h⟩ := collectEvent_uniform e { s with rx := es }
    exact ⟨f, s', hf, htrace, fun r => (act_of_collect (s := s.withReset r) hp hr).trans (h r)⟩

/-! ### TX is append-only (R29) -/

theorem act_extends_trace {s t : State} (h : act s = .next t) : s.trace <+: t.trace := by
  obtain ⟨f, s', hf, htrace, hact⟩ := act_uniform s
  cases (hact s.resetIn).symm.trans h
  rw [← htrace]
  exact hf.extends_trace (s'.withReset s.resetIn)

@[simp] theorem State.hear_trace (e : Outside) (s : State) : (s.hear e).trace = s.trace := by
  cases e <;> rfl

/-- No step takes back what was shown to the outside. -/
theorem step_extends_trace {s t : State} (h : step s = .next t) : s.trace <+: t.trace := by
  rcases step_cases s with ⟨-, hs⟩ | ⟨rest, -, hs⟩ | ⟨e, rest, -, -, hs⟩ <;> rw [hs] at h
  · obtain ⟨u, hu, rfl⟩ := strikeAfter_eq_next h
    simpa using act_extends_trace hu
  · cases h
    exact List.prefix_refl _
  · obtain ⟨u, hu, rfl⟩ := strikeAfter_eq_next h
    simpa using act_extends_trace hu

/-- Settles O44: the trace only grows, and TX is read off it event by event. -/
theorem outputIsAppendOnly : Obligations.OutputIsAppendOnly := by
  unfold Obligations.OutputIsAppendOnly
  intro s t h
  have htrace := step_extends_trace h
  exact ⟨htrace, htrace.filterMap _⟩

/-! ### A reset that falls due inside a step (R260, R262) -/

section
variable {s : State} (hr : s.resetIn = none)
include hr

/-- Of the bytes that would be written now, a reset falling due after `n` events lets the first `n` through. -/
theorem State.withReset_taken (n : Nat) (bs : List Byte) : (s.withReset (some n)).taken bs = (s.taken bs).take n := by
  cases hm : s.room <;> simp [taken, limit, withReset, hr, hm, List.take_take, Nat.min_comm]

theorem State.withReset_unsent (n : Nat) (bs : List Byte) :
    (s.withReset (some n)).unsent bs = (s.taken bs).drop n ++ s.unsent bs := by
  apply List.append_cancel_left (as := (s.taken bs).take n)
  rw [← List.append_assoc, List.take_append_drop, s.taken_append_unsent, ← State.withReset_taken hr, State.taken_append_unsent]

/-- A reset that falls due no earlier than behind the bytes written lets them through. -/
theorem State.withReset_emit {n : Nat} {bs : List Byte} (h : (s.taken bs).length ≤ n) :
    (s.withReset (some n)).emit bs = (s.emit bs).withReset (some (n - (s.taken bs).length)) := by
  unfold State.emit
  rw [State.withReset_taken hr, List.take_of_length_le h]
  rfl

end

/-- R262: `f` only extends the trace, and with a reset falling due after `n` of the events it shows, it shows exactly these and leaves
the reset due. -/
structure CutShort (f : State → State) : Prop where
  extends_trace : ∀ s, s.trace <+: (f s).trace
  cut : ∀ (s : State) (n : Nat), s.resetIn = none → s.trace.length + n ≤ (f s).trace.length →
    (f (s.withReset (some n))).trace = (f s).trace.take (s.trace.length + n) ∧ (f (s.withReset (some n))).resetIn = some 0

/-- What a reset that falls due at once lets through: nothing more. -/
theorem take_trace_of_prefix {s t : State} (h : s.trace <+: t.trace) : t.trace.take (s.trace.length + 0) = s.trace :=
  (List.prefix_iff_eq_take.1 h).symm

theorem cutShort_id : CutShort id where
  extends_trace _ := List.prefix_refl _
  cut s n _ hn := by
    obtain rfl : n = 0 := by simpa using hn
    exact ⟨(take_trace_of_prefix (List.prefix_refl _)).symm, rfl⟩

theorem endCycle_cutShort : CutShort State.endCycle where
  extends_trace := cutShort_id.extends_trace
  cut := cutShort_id.cut

section
variable {go : State → State} (hgo : CutShort go)
include hgo

theorem CutShort.sendThen_prefix (bs : List Byte) (rest : List Micro) (s : State) :
    s.trace ++ sent (s.taken bs) <+: (s.sendThen bs rest go).trace := by
  rcases s.sendThen_cases bs rest go with ⟨-, h⟩ | ⟨b, more, -, -, h⟩ <;> rw [h]
  · exact hgo.extends_trace (s.emit bs)
  · exact List.prefix_refl _

/-- Tx is cut short within its bytes, or behind them with the rest of the cycle. -/
theorem CutShort.sendThen (bs : List Byte) (rest : List Micro) : CutShort (State.sendThen bs rest go) where
  extends_trace s := (List.prefix_append _ _).trans (hgo.sendThen_prefix bs rest s)
  cut s n hr hn := by
    rcases Nat.lt_or_ge n (s.taken bs).length with hlt | hge
    · obtain ⟨shown, hshown⟩ := hgo.sendThen_prefix bs rest s
      rcases (s.withReset (some n)).sendThen_cases bs rest go with ⟨hu, -⟩ | ⟨b, more, -, -, h⟩
      · simp [State.withReset_unsent hr, Nat.not_le.2 hlt] at hu
      · rw [h, ← hshown, List.append_assoc, List.take_length_add_append, List.take_append_of_le_length (by simpa [sent] using hlt.le)]
        simp [State.withReset_taken hr, sent, Nat.min_eq_left hlt.le]
    · have hemit := State.withReset_emit hr hge
      have hunsent : (s.withReset (some n)).unsent bs = s.unsent bs := by
        rw [State.withReset_unsent hr, List.drop_of_length_le hge, List.nil_append]
      have hlen : (s.emit bs).trace.length = s.trace.length + (s.taken bs).length := by simp [sent]
      rcases s.sendThen_cases bs rest go with ⟨hu, h⟩ | ⟨b, more, hu, -, h⟩ <;> rw [h] at hn ⊢
      · have hcut := hgo.cut (s.emit bs) (n - (s.taken bs).length) (by simp [hr]) (by omega)
        rw [hlen, Nat.add_assoc, Nat.add_sub_cancel' hge] at hcut
        simpa only [State.sendThen, hunsent, hu, hemit] using hcut
      · have hlast : (s.emit bs).trace.length = s.trace.length + n := Nat.le_antisymm (by omega) hn
        have hn' : n - (s.taken bs).length = 0 := by omega
        simp only [State.sendThen, hunsent, hu, hemit, hn', ← hlast, List.take_length]
        exact ⟨rfl, rfl⟩

/-- The wait for a call is cut short before the return, or behind it with the payload and the rest of the cycle. -/
theorem CutShort.awaitThen (c : Call) (k : After) (rest : List Micro) : CutShort (State.awaitThen c k rest go) := by
  have hextends : ∀ s : State, s.trace <+: (s.awaitThen c k rest go).trace := by
    intro s
    rcases s.awaitThen_cases c k rest go with ⟨-, h⟩ | ⟨a, -, -, h⟩
    · exact h ▸ List.prefix_refl _
    · exact h ▸ (List.prefix_append _ _).trans ((hgo.sendThen _ rest).extends_trace ((s.settle c).noteDraw k a))
  refine ⟨hextends, fun s n hr hn => ?_⟩
  cases n with
  | zero =>
    rw [State.awaitThen_of_struck (s := s.withReset (some 0)) rfl, take_trace_of_prefix (hextends s)]
    exact ⟨rfl, rfl⟩
  | succ n =>
    rcases s.awaitThen_cases c k rest go with ⟨-, h⟩ | ⟨a, -, ha, h⟩ <;> rw [h] at hn ⊢
    · simp at hn
    · rw [State.awaitThen_of_answer (s := s.withReset (some (n + 1))) rfl ha]
      have hlen : ((s.settle c).noteDraw k a).trace.length = s.trace.length + 1 := by simp
      have hcut := (hgo.sendThen ((s.settle c).payload k a) rest).cut ((s.settle c).noteDraw k a) n (by simp [hr]) (by omega)
      rw [hlen, Nat.add_assoc, Nat.add_comm 1] at hcut
      exact hcut

/-- A call is cut short before it is made, or behind that with its return and the rest of the cycle. -/
theorem CutShort.callThen (c : Call) (k : After) (rest : List Micro) : CutShort (State.callThen c k rest go) := by
  have hextends : ∀ s : State, s.trace <+: (s.callThen c k rest go).trace := by
    intro s
    rcases s.callThen_cases c k rest go with ⟨-, h⟩ | ⟨-, h⟩
    · exact h ▸ List.prefix_refl _
    · exact h ▸ (List.prefix_append _ _).trans ((hgo.awaitThen c k rest).extends_trace (s.issue c))
  refine ⟨hextends, fun s n hr hn => ?_⟩
  cases n with
  | zero =>
    have hstop : (s.withReset (some 0)).callThen c k rest go = { s.withReset (some 0) with todo := .call c k :: rest } := if_pos rfl
    rw [hstop, take_trace_of_prefix (hextends s)]
    exact ⟨rfl, rfl⟩
  | succ n =>
    have hcall : s.callThen c k rest go = (s.issue c).awaitThen c k rest go := if_neg (by simp [State.struck, hr])
    have hlen : (s.issue c).trace.length = s.trace.length + 1 := by simp
    rw [hcall] at hn ⊢
    have hcut := (hgo.awaitThen c k rest).cut (s.issue c) n (by simp [hr]) (by omega)
    rw [hlen, Nat.add_assoc, Nat.add_comm 1] at hcut
    exact hcut

end

/-- Every cycle can be cut short after any event it shows. -/
theorem run_cutShort (ms : List Micro) : CutShort (run ms) := by
  induction ms with
  | nil => exact endCycle_cutShort
  | cons m rest ih =>
    cases m with
    | tx bs => exact ih.sendThen bs rest
    | call c k => exact ih.callThen c k rest
    | await c k => exact ih.awaitThen c k rest

theorem IsActing.cutShort {f : State → State} (h : IsActing f) : CutShort f := by
  rcases h with rfl | ⟨ms, rfl⟩
  · exact cutShort_id
  · exact run_cutShort ms

/-- Where nothing comes from outside, a step is an action and the reset that falls due in it. -/
theorem step_of_outside_nil {s : State} (h : s.outside = []) : step s = strikeAfter (act s) := by
  simp [step, stepWithOutside, h]

theorem State.strike_of_due {s : State} (h : s.resetIn = some 0) : s.strike = { s.resetBlock with resetIn := none } :=
  if_pos (by simp [State.struck, h])

/-- Settles O52: with and without the reset the same action is run from the same state, and it is cut short at the reset. -/
theorem resetStrikesAfterAnyEvent : Obligations.ResetStrikesAfterAnyEvent := by
  unfold Obligations.ResetStrikesAfterAnyEvent
  intro s t u n hout ht hn hu
  have hcfg : u.cfg = t.cfg := (configurationIsImmutable _ _ hu).trans (configurationIsImmutable _ _ ht).symm
  obtain ⟨f, s', hf, htrace, hact⟩ := act_uniform s
  have hstep : ∀ r, step (s.withReset r) = .next (f (s'.withReset r)).strike := by
    intro r
    rw [step_of_outside_nil (s := s.withReset r) hout, hact]
    rfl
  cases (hstep none).symm.trans ht
  cases (hstep (some n)).symm.trans hu
  have hbase : (s'.withReset none).trace.length = s.trace.length := congrArg List.length htrace
  rw [State.strike_trace] at hn
  obtain ⟨hshown, hdue⟩ := hf.cutShort.cut (s'.withReset none) n rfl (hbase ▸ hn)
  rw [State.withReset_withReset] at hshown hdue
  refine ⟨?shown, ?_, ?_, ?_, ?_, ?_, ?_, hcfg, ?rx⟩
  case shown =>
    rw [State.strike_trace, State.strike_trace, ← hbase]
    exact hshown
  case rx => rw [State.strike_rx, State.strike_rx, hf.keeps_rx, hf.keeps_rx]; rfl
  all_goals simp [State.strike_of_due hdue]

/-- Settles O50: a step at which the environment resets the block is that reset. -/
theorem resetAtAnyTime : Obligations.ResetAtAnyTime := by
  unfold Obligations.ResetAtAnyTime
  intro s rest h
  have hstep : step s = .next { s.resetBlock with outside := rest } := by simp [step, stepWithOutside, h]
  exact ⟨_, hstep, rfl, rfl, rfl, rfl, rfl, rfl, rfl, rfl, rfl, rfl, rfl, rfl, rfl⟩

end Sys2Proof.Machine
end

section
/-! PROOFS. Obligations O35, O36, O46, O47 and O48: waits inside EXEC, at a transport that takes no more bytes and at a call that has no
answer. -/

namespace Sys2Proof.Machine

/-! ### A wait changes nothing (R65, R270, R277) -/

/-- What the environment does leaves the RX stream alone, but for a delivery, which is added at its end. -/
theorem State.hear_rx (e : Outside) (s : State) : (s.hear e).rx = s.rx ∨ ∃ es, e = .deliver es ∧ (s.hear e).rx = s.rx ++ es := by
  cases e with
  | deliver es => exact .inr ⟨es, rfl, rfl⟩
  | quiet | reset | resetIn _ | answer _ | room _ => exact .inl rfl

/-- In EXEC an action is the rest of the cycle. -/
theorem act_of_exec {s : State} (h : s.ph = .exec) : act s = .next (run s.todo s) := by
  simp [act, h]

/-- In EXEC an action polls no RX event. -/
theorem strikeAfter_act_keeps_rx {s t : State} (hp : s.ph = .exec) (h : strikeAfter (act s) = .next t) : t.rx = s.rx := by
  obtain ⟨u, hu, rfl⟩ := strikeAfter_eq_next h
  cases (act_of_exec hp).symm.trans hu
  simp

/-- Settles O46: in EXEC a step is a reset or the rest of the cycle, neither of which touches RX, behind what the environment does. -/
theorem nothingIsConsumedInExec : Obligations.NothingIsConsumedInExec := by
  unfold Obligations.NothingIsConsumedInExec
  intro s t hp h
  rcases step_cases s with ⟨-, hs⟩ | ⟨rest, -, hs⟩ | ⟨e, rest, ho, he, hs⟩ <;> rw [hs] at h
  · exact .inl (strikeAfter_act_keeps_rx hp h)
  · cases h
    exact .inl rfl
  · have hph := (State.hear_keeps_registers he { s with outside := rest }).1
    rw [strikeAfter_act_keeps_rx (hph.trans hp) h]
    exact (State.hear_rx e _).imp id fun ⟨es, heq, hrx⟩ => ⟨es, rest, heq ▸ ho, hrx⟩

/-- Tx at a transport that does not take all its bytes writes what is taken and stops. -/
theorem State.sendThen_of_short {s : State} {n : Nat} {bs : List Byte} (hroom : s.room = some n) (hr : s.resetIn = none)
    (hn : n < bs.length) (rest : List Micro) (go : State → State) :
    s.sendThen bs rest go =
      { s with trace := s.trace ++ sent (bs.take n), room := some 0, todo := .tx (bs.drop n) :: rest } := by
  have hunsent : s.unsent bs = bs.drop n := by simp [unsent, limit, hroom, hr]
  have hemit : s.emit bs = { s with trace := s.trace ++ sent (bs.take n), room := some 0 } := by
    simp [emit, taken, limit, hroom, hr, hn.le]
  cases hdrop : bs.drop n with
  | nil => exact absurd (List.drop_eq_nil_iff.1 hdrop) (Nat.not_le.2 hn)
  | cons b more => simp [sendThen, hunsent, hdrop, hemit]

/-- The rest of a cycle that is stopped at a collaborator is still the rest after it has been run. -/
theorem run_todo_of_blocked {s : State} (h : s.blocked = true) (hr : s.resetIn = none) : run s.todo s = s := by
  rcases htodo : s.todo with _ | ⟨_ | _ | ⟨c, k⟩, rest⟩
  case cons.tx bs =>
    cases bs with
    | nil => simp [State.blocked, htodo] at h
    | cons b bs =>
      have hroom : s.room = some 0 := by simpa [State.blocked, htodo] using h
      calc run (.tx (b :: bs) :: rest) s
          = { s with trace := s.trace ++ sent [], room := some 0, todo := .tx (b :: bs) :: rest } :=
            State.sendThen_of_short (bs := b :: bs) hroom hr (Nat.zero_lt_succ _) rest _
        _ = s := by rw [← hroom, ← htodo]; simp [sent]
  case cons.await =>
    have hanswer : s.nextAnswer = none := by simpa [State.blocked, htodo] using h
    calc run (.await c k :: rest) s = { s with todo := .await c k :: rest } := State.awaitThen_of_silence hanswer c k rest _
      _ = s := by rw [← htodo]
  all_goals simp [State.blocked, htodo] at h

theorem step_of_hung {s : State} (h : s.Hung) : step s = .next s := by
  obtain ⟨hp, hblocked, hquiet⟩ := h
  rw [step_of_quiet hquiet, act_of_exec hp, run_todo_of_blocked hblocked hquiet.2]

/-- Any number of steps stays where one step stays. -/
theorem steps_of_fixed {s : State} (h : step s = .next s) (n : Nat) : steps n s = .next s := by
  induction n with
  | zero => exact steps_zero s
  | succ n ih => rw [steps_succ_of_next h, ih]

/-- Settles O47: one step from a hang changes nothing. -/
theorem hangIsForEver : Obligations.HangIsForEver := by
  unfold Obligations.HangIsForEver
  exact fun s n h => steps_of_fixed (step_of_hung h) n

/-! ### The end of a wait at a call (R51, R145) -/

/-- No answer is at hand exactly if none is listed and the collaborators do not answer beyond the list. -/
theorem State.nextAnswer_eq_none {s : State} : s.nextAnswer = none ↔ s.answers = [] ∧ s.answering = false := by
  cases h : s.answers <;> simp [nextAnswer, h]

/-- The payload of an answer depends on the configuration and the draws alone. -/
theorem State.payload_congr {s t : State} (hcfg : t.cfg = s.cfg) (hdraws : t.draws = s.draws) (k : After) (a : Answer) :
    t.payload k a = s.payload k a := by
  cases k <;> simp [payload, hcfg, hdraws]

/-- `s` with the answer `a` come as the only one at hand. -/
def State.withAnswer (a : Answer) (rest : List Outside) (s : State) : State := { s with outside := rest, answers := [a] }

/-- The state in which the answer `a` to the outstanding call `c` has been used up and its payload written. -/
def State.answered (c : Call) (k : After) (a : Answer) (rest : List Outside) (s : State) : State :=
  { s with
    outside := rest, trace := s.trace ++ [.returned c] ++ sent (s.payload k a),
    owOpen := s.owOpen && !c.usesOneWire, dhtOpen := s.dhtOpen && !c.usesDht,
    draws := if k.drawsToken a then s.draws + 1 else s.draws }

/-- Where everything flows, an outstanding call that has an answer at hand returns, its handle is released and its payload written. -/
theorem run_await_of_answer {s : State} {a : Answer} (hf : s.Flows) (ha : s.nextAnswer = some a) (c : Call) (k : After)
    (rest : List Micro) :
    run (.await c k :: rest) s = run rest { (s.settle c).noteDraw k a with
      trace := s.trace ++ [.returned c] ++ sent ((s.settle c).payload k a) } := by
  have hflows : ((s.settle c).noteDraw k a).Flows := ⟨hf.1, by simp [hf.2]⟩
  exact (State.awaitThen_of_answer (State.struck_of_flows hf) ha c k rest _).trans (State.sendThen_of_flows hflows _ rest _)

/-- The step at which the answer comes that the block waits for, none having been at hand. -/
theorem step_of_answer {s : State} {c : Call} {k : After} {more : List Micro} {a : Answer} {rest : List Outside}
    (hp : s.ph = .exec) (htodo : s.todo = .await c k :: more) (hanswers : s.answers = []) (hf : s.Flows)
    (ho : s.outside = .answer a :: rest) : step s = .next (run more (s.answered c k a rest)) := by
  have hpayload : ((s.withAnswer a rest).settle c).payload k a = s.payload k a := State.payload_congr rfl rfl k a
  calc step s
      = strikeAfter (act (s.withAnswer a rest)) := by
        simp [step, stepWithOutside, ho, State.hear, hanswers, State.withAnswer]
    _ = act (s.withAnswer a rest) := strikeAfter_act_of_none hf.2
    _ = .next (run s.todo (s.withAnswer a rest)) := act_of_exec (s := s.withAnswer a rest) hp
    _ = .next (run more (s.answered c k a rest)) := by
      rw [htodo, run_await_of_answer (s := s.withAnswer a rest) hf rfl, hpayload]
      simp [State.answered, State.noteDraw, State.settle, State.popAnswer, State.withAnswer, hf.2, hanswers]

/-- Settles O48: the answer takes the wait to the rest of the cycle, which is run for each of the three rests. -/
theorem answerEndsTheWait : Obligations.AnswerEndsTheWait := by
  unfold Obligations.AnswerEndsTheWait
  intro s c k more a rest hp htodo hsilent hf ho
  obtain ⟨hanswers, hdeaf⟩ := State.nextAnswer_eq_none.1 hsilent
  have hstep := step_of_answer hp htodo hanswers hf ho
  refine ⟨hstep, ?last, ?bytes, ?call⟩
  case last =>
    rintro rfl
    exact ⟨_, hstep, rfl, rfl, rfl, hanswers, rfl⟩
  case bytes =>
    rintro bytes rfl
    rw [run_tx_of_flows (s := s.answered c k a rest) hf] at hstep
    exact ⟨_, hstep, rfl, rfl, rfl, hanswers, rfl⟩
  case call =>
    rintro d l less rfl
    have hsilent' : (s.answered c k a rest).nextAnswer = none := State.nextAnswer_eq_none.2 ⟨hanswers, hdeaf⟩
    rw [run_call_of_silence (s := s.answered c k a rest) (State.struck_of_flows hf) hsilent'] at hstep
    exact ⟨_, hstep, hp, rfl, rfl, hanswers, rfl⟩

/-! ### A transport that stops within the preamble (R65, R70) -/

/-- The cycle of every command begins with its preamble (R141, R211). -/
theorem cycleOf_starts_with_preamble (cfg : Cfg) (i : Instr) :
    ∃ rest, cycleOf cfg i = .tx (if i.isSystem then idPreamble cfg else pinPreamble cfg i.pin) :: rest := by
  cases i <;> exact ⟨_, rfl⟩

/-- Bytes are no calls. -/
theorem State.calls_of_sent {s t : State} {bs : List Byte} (h : t.trace = s.trace ++ sent bs) : t.calls = s.calls := by
  simp [calls, h, sent, List.filterMap_map]

/-- Settles O35: the preamble is the first line of the cycle, and the cycle stops in it. -/
theorem stalledPreambleMakesNoCall : Obligations.StalledPreambleMakesNoCall := by
  unfold Obligations.StalledPreambleMakesNoCall
  rintro i n bytes s hbytes hroom hr hn
  obtain ⟨rest, hcycle⟩ := cycleOf_starts_with_preamble s.cfg i
  rw [← hbytes] at hcycle
  have hrun : s.begin (.tx bytes :: rest) = _ := State.sendThen_of_short (s := { s with ph := .exec }) hroom hr hn rest (run rest)
  rw [exec_eq_cycleOf, hcycle, hrun]
  exact ⟨_, rfl, rfl, rfl, State.calls_of_sent rfl, rfl⟩

/-! ### A transport that stops and later takes the rest (R65) -/

/-- `s` with a transport that takes every byte. -/
def State.unlimited (s : State) : State := { s with room := none }

@[simp] theorem State.limit_unlimited (s : State) : s.unlimited.limit = s.resetIn := by
  cases h : s.resetIn <;> simp [limit, unlimited, h]

/-- No more is written than comes before a reset. -/
theorem State.taken_length_le {s : State} {r : Nat} (hr : s.resetIn = some r) (bs : List Byte) : (s.taken bs).length ≤ r := by
  cases hm : s.room <;> simp [taken, limit, hm, hr]

/-- A transport that takes every byte takes those that come before a reset. -/
theorem State.unlimited_taken {s : State} {r : Nat} (hr : s.resetIn = some r) (bs : List Byte) :
    s.unlimited.taken bs = bs.take r := by
  simp [taken, hr]

/-- What a limited transport takes, and then one that takes every byte of the rest, is what the latter takes of all of it. -/
theorem State.taken_append_taken (s : State) (bs : List Byte) :
    s.taken bs ++ (s.emit bs).unlimited.taken (s.unsent bs) = s.unlimited.taken bs := by
  have hjoin := s.taken_append_unsent bs
  cases hr : s.resetIn with
  | none =>
    have hemit : (s.emit bs).unlimited.Flows := ⟨rfl, congrArg (Option.map _) hr⟩
    rw [State.taken_of_flows hemit, State.taken_of_flows (s := s.unlimited) ⟨rfl, hr⟩, hjoin]
  | some r =>
    have hemit : (s.emit bs).resetIn = some (r - (s.taken bs).length) := congrArg (Option.map _) hr
    have hle := State.taken_length_le hr bs
    calc s.taken bs ++ (s.emit bs).unlimited.taken (s.unsent bs)
        = (s.taken bs).take r ++ (s.unsent bs).take (r - (s.taken bs).length) := by
          rw [State.unlimited_taken hemit, List.take_of_length_le hle]
      _ = s.unlimited.taken bs := by rw [← List.take_append, hjoin, State.unlimited_taken hr]

/-- Tx at a limited transport, and then Tx of what is left at one that takes every byte, is Tx of all of it at the latter. -/
theorem State.emit_sendThen_unsent (s : State) (bs : List Byte) (rest : List Micro) (go : State → State) :
    (s.emit bs).unlimited.sendThen (s.unsent bs) rest go = s.unlimited.sendThen bs rest go := by
  have htaken := s.taken_append_taken bs
  have hunsent : (s.emit bs).unlimited.unsent (s.unsent bs) = s.unlimited.unsent bs := by
    apply List.append_cancel_left (as := s.unlimited.taken bs)
    rw [← htaken, List.append_assoc, State.taken_append_unsent, State.taken_append_unsent, htaken, State.taken_append_unsent]
  have hemit : (s.emit bs).unlimited.emit (s.unsent bs) = s.unlimited.emit bs := by
    conv_rhs => rw [State.emit, ← htaken]
    cases hr : s.resetIn <;> simp [emit, unlimited, sent_append, hr, Nat.sub_sub]
  unfold State.sendThen
  rw [hunsent, hemit]

/-- Tx of nothing only goes on with the cycle. -/
theorem State.sendThen_nil (s : State) (rest : List Micro) (go : State → State) : s.sendThen [] rest go = go s := by
  have hunsent : s.unsent [] = [] := by cases h : s.limit <;> simp [unsent, h]
  have hemit : s.emit [] = s := by
    have htaken : s.taken [] = [] := by cases h : s.limit <;> simp [taken, h]
    simp [emit, htaken, sent]
  simp [sendThen, hunsent, hemit]

/-- `go` stopped at a limited transport and then resumed shows and leaves what it does at once where every byte is taken. -/
def Resumes (go : State → State) : Prop :=
  ∀ s : State, SameCycle (run (go s).todo (go s).unlimited) (go s.unlimited)

theorem Resumes.sendThen {rest : List Micro} (hrest : Resumes (run rest)) (bs : List Byte) :
    Resumes (State.sendThen bs rest (run rest)) := by
  intro s
  rw [← State.emit_sendThen_unsent]
  rcases s.sendThen_cases bs rest (run rest) with ⟨hu, h⟩ | ⟨b, more, hu, -, h⟩ <;> rw [h, hu]
  · rw [State.sendThen_nil]
    exact hrest (s.emit bs)
  · exact run_congr (.tx (b :: more) :: rest) ⟨rfl, rfl, rfl, rfl, rfl, rfl, rfl⟩

theorem Resumes.awaitThen {rest : List Micro} (hrest : Resumes (run rest)) (c : Call) (k : After) :
    Resumes (State.awaitThen c k rest (run rest)) := by
  intro s
  rcases s.awaitThen_cases c k rest (run rest) with ⟨-, h⟩ | ⟨a, hs, ha, h⟩ <;> rw [h]
  · exact run_congr (.await c k :: rest) ⟨rfl, rfl, rfl, rfl, rfl, rfl, rfl⟩
  · rw [State.awaitThen_of_answer (s := s.unlimited) hs ha]
    exact hrest.sendThen _ ((s.settle c).noteDraw k a)

theorem Resumes.callThen {rest : List Micro} (hrest : Resumes (run rest)) (c : Call) (k : After) :
    Resumes (State.callThen c k rest (run rest)) := by
  intro s
  rcases s.callThen_cases c k rest (run rest) with ⟨-, h⟩ | ⟨hs, h⟩ <;> rw [h]
  · exact run_congr (.call c k :: rest) ⟨rfl, rfl, rfl, rfl, rfl, rfl, rfl⟩
  · have hcall : s.unlimited.callThen c k rest (run rest) = (s.issue c).unlimited.awaitThen c k rest (run rest) :=
      if_neg (Bool.eq_false_iff.1 hs)
    rw [hcall]
    exact hrest.awaitThen c k (s.issue c)

theorem run_resumes (ms : List Micro) : Resumes (run ms) := by
  induction ms with
  | nil => exact fun s => .refl _
  | cons m rest ih =>
    cases m with
    | tx bs => exact ih.sendThen bs
    | call c k => exact ih.callThen c k
    | await c k => exact ih.awaitThen c k

/-- Settles O36: the cycle of the command is stopped and resumed. -/
theorem backPressureLosesNothing : Obligations.BackPressureLosesNothing := by
  unfold Obligations.BackPressureLosesNothing
  intro i s t u n ht hu
  cases (exec_eq_cycleOf i _).symm.trans ht
  cases (exec_eq_cycleOf i _).symm.trans hu
  exact (run_resumes (cycleOf s.cfg i) { s with ph := .exec, room := some n }).trace

end Sys2Proof.Machine
end

section
/-! PROOFS. Obligation O16: the block over a finite RX list refines the function `frames` followed by the handling of each record. One step
of the block reads one event as `frames` does, and the handling of a record depends on the part of the state that `SameCycle`
compares. -/

namespace Sys2Proof.Machine

/-! ### The handling of a closed record (R125, R131) -/

/-- Selection reads CFG, RAW and the field registers: from states that agree in them the same lines are run. -/
theorem dispatch_congr {s t : State} (hcfg : s.cfg = t.cfg) (hraw : s.raw = t.raw) (hfields : s.fields = t.fields) :
    ∃ ms, dispatch s = .next (s.begin ms) ∧ dispatch t = .next (t.begin ms) := by
  have hcmd : s.cmd = t.cmd := congrArg Fields.cmd hfields
  have hpin : s.pin = t.pin := congrArg Fields.pin hfields
  rcases hsel : select t.fields with i | _ | _ | _
  case command =>
    exact ⟨cycleOf t.cfg i, by simp only [dispatch, hfields, hsel, exec_eq_cycleOf, hcfg],
      by simp only [dispatch, hsel, exec_eq_cycleOf]⟩
  all_goals
    simp only [dispatch, hfields, hsel, dropUnrecognized, State.raise, hcfg, hraw, hcmd, hpin]
    exact ⟨_, rfl, rfl⟩

/-- A record is handled alike in states that agree in what a cycle reads. -/
theorem rxClose_congr {s t : State} (h : SameCycle s t) (hraw : s.raw = t.raw) :
    ∃ s' t', rxClose s = .next s' ∧ rxClose t = .next t' ∧ SameCycle s' t' := by
  have hrun : ∀ ms, SameCycle (s.begin ms) (t.begin ms) := fun ms =>
    run_congr ms ⟨h.trace, h.cfg, h.answers, h.answering, h.room, h.resetIn, h.draws⟩
  cases hf : fieldsOf t.raw with
  | none =>
    simp only [rxClose, hraw, hf, State.raise, h.cfg]
    exact ⟨_, _, rfl, rfl, hrun _⟩
  | some f =>
    obtain ⟨ms, hs, ht⟩ := dispatch_congr (s := s.writeFields f) (t := t.writeFields f) h.cfg hraw rfl
    simp only [rxClose, hraw, hf, hs, ht]
    exact ⟨_, _, rfl, rfl, run_congr ms ⟨h.trace, h.cfg, h.answers, h.answering, h.room, h.resetIn, h.draws⟩⟩

theorem State.serve_of_rxClose {s t : State} {raw : List Byte} (h : rxClose { s with raw := raw } = .next t) : s.serve raw = t := by
  simp [serve, h]

theorem serve_congr {s t : State} (h : SameCycle s t) (raw : List Byte) : SameCycle (s.serve raw) (t.serve raw) := by
  obtain ⟨s', t', hs, ht, hsame⟩ := rxClose_congr (s := { s with raw := raw }) (t := { t with raw := raw })
    ⟨h.trace, h.cfg, h.answers, h.answering, h.room, h.resetIn, h.draws⟩ rfl
  rwa [State.serve_of_rxClose hs, State.serve_of_rxClose ht]

theorem foldl_serve_congr (raws : List (List Byte)) :
    ∀ {s t : State}, SameCycle s t → SameCycle (raws.foldl State.serve s) (raws.foldl State.serve t) := by
  induction raws with
  | nil => exact id
  | cons raw raws ih => exact fun h => ih (serve_congr h raw)

theorem SameCycle.trans {s t u : State} (h : SameCycle s t) (h' : SameCycle t u) : SameCycle s u :=
  ⟨h.trace.trans h'.trace, h.cfg.trans h'.cfg, h.answers.trans h'.answers, h.answering.trans h'.answering, h.room.trans h'.room,
    h.resetIn.trans h'.resetIn, h.draws.trans h'.draws⟩

/-! ### One step of the decoder (R120, R131) -/

/-- A state in which the block polls the transport, with the premises under which every cycle ends (R285). -/
structure State.Receiving (s : State) : Prop where
  polls : s.ph ≠ .exec
  outside : s.outside = []
  flows : s.Flows
  answering : s.answering = true

/-- Under these premises the handling of a record ends in SCAN (R145). -/
theorem rxClose_completes {s : State} (ho : s.outside = []) (hf : s.Flows) (ha : s.answering = true) :
    ∃ t, rxClose s = .next t ∧ t.Receiving ∧ t.ph = .scan ∧ t.rx = s.rx := by
  obtain ⟨ms, s', -, hclose, hs⟩ := rxClose_cases s
  have hs' : s'.outside = [] ∧ s'.Flows ∧ s'.answering = true ∧ s'.rx = s.rx := by
    rcases hs with rfl | ⟨f, -, rfl⟩ <;> exact ⟨ho, hf, ha, rfl⟩
  obtain ⟨ho', hf', ha', hrx⟩ := hs'
  obtain ⟨hph, hflows⟩ := run_completes ms { s' with ph := .exec } hf' ha'
  exact ⟨_, hclose, ⟨by simp [State.begin, hph], by simpa [State.begin] using ho', hflows, by simpa [State.begin] using ha'⟩, hph,
    by simpa [State.begin] using hrx⟩

/-- The state of `frames` that a phase of the block stands for: the open record, none outside COLLECT. -/
def State.openRecord (s : State) : Option (List Byte) :=
  match s.ph with
  | .collect => some s.raw
  | .scan | .exec => none

/-- The step from `s` to `t` has read one event, leaving `es`, as `frames` reads it: `closed` are the records it has closed, and what it
has shown is what their handling shows. -/
structure ReadsEvent (s : State) (es : List RxEvent) (t : State) (closed : List (List Byte)) : Prop where
  step : step s = .next t
  receiving : t.Receiving
  rx : t.rx = es
  frames : frames s.cfg.rawMax s.openRecord s.rx = closed ++ frames s.cfg.rawMax t.openRecord es
  shown : SameCycle t (closed.foldl State.serve s)

/-- An event that closes no record, but may write RAW and the phase. -/
theorem ReadsEvent.of_no_record {s : State} {es : List RxEvent} {raw : List Byte} {ph : Phase} (h : s.Receiving) (hph : ph ≠ .exec)
    (hact : act s = .next { s with rx := es, raw := raw, ph := ph })
    (hframes : Machine.frames s.cfg.rawMax s.openRecord s.rx =
      Machine.frames s.cfg.rawMax (State.openRecord { s with rx := es, raw := raw, ph := ph }) es) :
    ReadsEvent s es { s with rx := es, raw := raw, ph := ph } [] where
  step := (step_of_quiet ⟨h.outside, h.flows.2⟩).trans hact
  receiving := ⟨hph, h.outside, h.flows, h.answering⟩
  rx := rfl
  frames := hframes
  shown := ⟨rfl, rfl, rfl, rfl, rfl, rfl, rfl⟩

/-- An event that closes a record, which is handled to its end. -/
theorem ReadsEvent.of_record {s : State} {es : List RxEvent} {raw : List Byte} (h : s.Receiving)
    (hact : act s = rxClose { s with rx := es, raw := raw })
    (hframes : Machine.frames s.cfg.rawMax s.openRecord s.rx = raw :: Machine.frames s.cfg.rawMax none es) :
    ∃ t, ReadsEvent s es t [raw] := by
  obtain ⟨t, ht, hrec, hph, hrx⟩ :=
    rxClose_completes (s := { s with rx := es, raw := raw }) h.outside h.flows h.answering
  obtain ⟨t', u, ht', hu, hsame⟩ := rxClose_congr (s := { s with rx := es, raw := raw }) (t := { s with raw := raw })
    ⟨rfl, rfl, rfl, rfl, rfl, rfl, rfl⟩ rfl
  cases ht.symm.trans ht'
  have hopen : t.openRecord = none := by simp [State.openRecord, hph]
  rw [← State.serve_of_rxClose hu] at hsame
  exact ⟨t, (step_of_quiet ⟨h.outside, h.flows.2⟩).trans (hact.trans ht), hrec, hrx, by rw [hframes, hopen]; rfl, hsame⟩

/-- In SCAN an event opens a record or is dropped. -/
theorem readsEvent_of_scan {s : State} {e : RxEvent} {es : List RxEvent} (h : s.Receiving) (hp : s.ph = .scan) (hr : s.rx = e :: es) :
    ∃ t, ReadsEvent s es t [] := by
  have hact := act_of_scan hp hr
  have hopen : s.openRecord = none := by simp [State.openRecord, hp]
  have hdrop : act s = .next { s with rx := es } → frames s.cfg.rawMax none (e :: es) = frames s.cfg.rawMax none es →
      ∃ t, ReadsEvent s es t [] := fun hact hframes =>
    ⟨_, .of_no_record h h.polls hact (by rw [hopen, hr, hframes]; exact congrArg (frames _ · es) hopen.symm)⟩
  cases e with
  | boundary => exact hdrop hact rfl
  | byte b =>
    by_cases hb : b = startByte
    · exact ⟨_, .of_no_record (ph := .collect) h (by simp) (hact.trans (if_pos hb)) (by rw [hopen, hr]; exact if_pos hb)⟩
    · exact hdrop (hact.trans (if_neg hb)) (if_neg hb)

/-- In COLLECT an event closes the open record or extends it. -/
theorem readsEvent_of_collect {s : State} {e : RxEvent} {es : List RxEvent} (h : s.Receiving) (hp : s.ph = .collect)
    (hr : s.rx = e :: es) : ∃ t closed, ReadsEvent s es t closed := by
  have hact := act_of_collect hp hr
  have hopen : s.openRecord = some s.raw := by simp [State.openRecord, hp]
  have hclose : ∀ raw, act s = rxClose { s with rx := es, raw := raw } →
      frames s.cfg.rawMax (some s.raw) (e :: es) = raw :: frames s.cfg.rawMax none es → ∃ t closed, ReadsEvent s es t closed := by
    intro raw hact hframes
    obtain ⟨t, ht⟩ := ReadsEvent.of_record h hact (by rw [hopen, hr, hframes])
    exact ⟨t, _, ht⟩
  cases e with
  | boundary => exact hclose s.raw hact rfl
  | byte b =>
    by_cases hb : b = endByte
    · exact hclose s.raw (hact.trans (if_pos hb)) (if_pos hb)
    · by_cases hfull : s.cfg.rawMax = some (s.raw.length + 1)
      · refine hclose (s.raw ++ [b]) (hact.trans ?_) ((if_neg hb).trans (if_pos hfull))
        simp [collectEvent, hb, rxData, rxFull, State.rawFull, hfull]
      · refine ⟨_, _, .of_no_record (raw := s.raw ++ [b]) (ph := s.ph) h h.polls (hact.trans ?_) ?_⟩
        · simp [collectEvent, hb, rxData, State.rawFull, hfull]
        · rw [hopen, hr]
          simp [frames, hb, hfull, State.openRecord, hp]

/-- Every event is read, in SCAN and in COLLECT. -/
theorem exists_readsEvent {s : State} {e : RxEvent} {es : List RxEvent} (h : s.Receiving) (hr : s.rx = e :: es) :
    ∃ t closed, ReadsEvent s es t closed := by
  cases hp : s.ph with
  | scan =>
    obtain ⟨t, ht⟩ := readsEvent_of_scan h hp hr
    exact ⟨t, [], ht⟩
  | collect => exact readsEvent_of_collect h hp hr
  | exec => exact absurd hp h.polls

/-! ### A finite RX list (R131) -/

/-- The block reads every event of the RX list and has shown what the handling of the records of `frames` shows. -/
theorem steps_refine_frames (es : List RxEvent) : ∀ s : State, s.Receiving → s.rx = es →
    ∃ t, steps es.length s = .next t ∧ t.rx = [] ∧ t.Receiving ∧
      SameCycle t ((frames s.cfg.rawMax s.openRecord es).foldl State.serve s) := by
  induction es with
  | nil =>
    intro s h hr
    exact ⟨s, steps_zero s, hr, h, by cases s.openRecord <;> exact .refl s⟩
  | cons e es ih =>
    intro s h hr
    obtain ⟨u, closed, hread⟩ := exists_readsEvent h hr
    obtain ⟨t, ht, hrx, hrec, hshown⟩ := ih u hread.receiving hread.rx
    have hcfg : u.cfg = s.cfg := configurationIsImmutable s u hread.step
    refine ⟨t, (steps_succ_of_next hread.step _).trans ht, hrx, hrec, ?_⟩
    rw [← hr, hread.frames, List.foldl_append, ← hcfg]
    exact hshown.trans (foldl_serve_congr _ hread.shown)

/-- Settles O16: from SCAN no record is open, and the block reads the list event by event. -/
theorem decoderIsFramesFunction : Obligations.DecoderIsFramesFunction := by
  unfold Obligations.DecoderIsFramesFunction
  intro s hp ho hf ha
  have hopen : s.openRecord = none := by simp [State.openRecord, hp]
  obtain ⟨t, ht, hrx, hrec, hshown⟩ := steps_refine_frames s.rx s ⟨by simp [hp], ho, hf, ha⟩ rfl
  exact ⟨t, ht, hrx, hrec.polls, hopen ▸ hshown.trace⟩

end Sys2Proof.Machine
end

section
/-! PROOFS. Obligations O1, O2, O5, O6, O7, O11, O30, O31 and O37: the fields of a record, the encoder as the decoder's inverse, the
selection table, numerals, a record of the wrong length, and the one-wire commands. -/

namespace Sys2Proof

/-! ### parse_dec (R86, R87) -/

theorem isDigit_iff (b : Byte) : isDigit b = true ↔ 0x30 ≤ b.toNat ∧ b.toNat ≤ 0x39 := by
  simp [isDigit]

/-- A digit after a field of digits counts the ones. -/
theorem parseDec_concat {s : List Byte} {b : Byte} (hs : s.all isDigit = true) (hb : isDigit b = true) :
    parseDec (s ++ [b]) = 10 * parseDec s + (b.toNat - 0x30) := by
  simp [parseDec, hs, hb]

theorem parseDec_two {a b : Byte} (ha : isDigit a = true) (hb : isDigit b = true) :
    parseDec [a, b] = 10 * (a.toNat - 0x30) + (b.toNat - 0x30) := by
  have hone : parseDec [a] = a.toNat - 0x30 := (parseDec_concat (s := []) rfl ha).trans (Nat.zero_add _)
  rw [← hone]
  exact parseDec_concat (s := [a]) (by simp [ha]) hb

theorem parseDec_three {a b c : Byte} (ha : isDigit a = true) (hb : isDigit b = true) (hc : isDigit c = true) :
    parseDec [a, b, c] = 100 * (a.toNat - 0x30) + 10 * (b.toNat - 0x30) + (c.toNat - 0x30) := by
  have hthree : parseDec [a, b, c] = 10 * parseDec [a, b] + (c.toNat - 0x30) :=
    parseDec_concat (s := [a, b]) (by simp [ha, hb]) hc
  rw [hthree, parseDec_two ha hb]
  ring

/-- R86, D7: one byte that is no digit makes the whole field 0. -/
theorem parseDec_of_nondigit {s : List Byte} (h : ∃ b ∈ s, isDigit b = false) : parseDec s = 0 := by
  obtain ⟨b, hb, hbad⟩ := h
  exact if_neg fun hall => by simp [List.all_eq_true.1 hall b hb] at hbad

/-- Settles O5: a field of digits is read digit by digit, and a byte that is no digit fails the test of the whole field. -/
theorem parseDecIsDecimalOrZero : Obligations.ParseDecIsDecimalOrZero :=
  ⟨isDigit_iff, fun _ _ => parseDec_two, fun _ _ _ => parseDec_three, fun _ => parseDec_of_nondigit⟩

/-! ### The fields of a record (R84, R85, R125) -/

theorem length_of_fieldsOf {raw : List Byte} {f : Fields} (h : fieldsOf raw = some f) : raw.length = 7 := by
  unfold fieldsOf at h
  split at h
  · rfl
  · cases h

theorem exists_fieldsOf_of_length {raw : List Byte} (h : raw.length = 7) : ∃ f, fieldsOf raw = some f :=
  match raw, h with
  | [_, _, _, _, _, _, _], _ => ⟨_, rfl⟩

theorem fieldsOf_eq_none_iff (raw : List Byte) : fieldsOf raw = none ↔ raw.length ≠ 7 := by
  constructor
  · intro hnone hlen
    obtain ⟨f, hf⟩ := exists_fieldsOf_of_length hlen
    simp [hf] at hnone
  · exact fun hlen => Option.eq_none_iff_forall_ne_some.2 fun f hf => hlen (length_of_fieldsOf hf)

/-- OP of a record is one of its bytes. -/
theorem op_mem_of_fieldsOf {raw : List Byte} {f : Fields} (h : fieldsOf raw = some f) : f.op ∈ raw := by
  unfold fieldsOf at h
  split at h
  · cases h
    simp
  · cases h

/-- Settles O6: the ranges are those of fields of two and of three bytes. -/
theorem fieldsOfSevenBytes : Obligations.FieldsOfSevenBytes := by
  unfold Obligations.FieldsOfSevenBytes
  refine ⟨fun b0 b1 b2 b3 b4 b5 b6 => ?_, fieldsOf_eq_none_iff⟩
  have hfields : fieldsOf [b0, b1, b2, b3, b4, b5, b6] = some ⟨b0, b1, parseDec [b2, b3], parseDec [b4, b5, b6]⟩ := rfl
  exact ⟨hfields, fieldsOf_ranges hfields⟩

/-! ### Selection (R142) -/

theorem select_of_unknown_command {f : Fields}
    (h : f.cmd ∉ [Letter.z, Letter.A, Letter.D, Letter.M, Letter.w, Letter.W, Letter.S]) :
    select f = .rejected .unrecognizedCommand := by
  simp only [List.mem_cons, not_or] at h
  obtain ⟨hz, hA, hD, hM, hw, hW, hS, -⟩ := h
  rw [select, if_neg hz, if_neg hA, if_neg hD, if_neg hM, if_neg hw, if_neg hW, if_neg hS]

/-- Settles O7: the letters of a row select its command, and any others are rejected by the group they fall in. -/
theorem selectionTable : Obligations.SelectionTable := by
  unfold Obligations.SelectionTable
  refine ⟨fun p v => ⟨rfl, rfl, rfl, rfl, rfl, rfl, rfl, rfl, rfl, rfl⟩, fun o p v => ⟨rfl, rfl, rfl⟩,
    fun c o p v h => select_of_unknown_command h, fun o p v => ⟨?z, ?A, ?D, ?M⟩⟩
  all_goals simp only [List.mem_cons, not_or]
  case z => exact fun ⟨hz, hv, _⟩ => (if_neg hz).trans (if_neg hv)
  case A | D => exact fun ⟨hR, hW, _⟩ => (if_neg hR).trans (if_neg hW)
  case M => exact fun ⟨hI, hP, hO, hR, _⟩ => (if_neg hI).trans ((if_neg hP).trans ((if_neg hO).trans (if_neg hR)))

/-! ### Decoded commands (R82, R95) -/

/-- A selected command has the operands of its record. -/
theorem withOperands_of_select {i : Instr} {f : Fields} (h : select f = .command i) : i.withOperands f = i := by
  obtain ⟨hcmd, hop⟩ := letters_of_select h
  exact Decoded.command.inj ((select_of_letters i f hcmd hop).symm.trans h)

/-- The operands of a record are read back from the command: PIN, VAL and, where it is free, the operation byte. -/
theorem Instr.withOperands_spec (f : Fields) (i : Instr) :
    (i.withOperands f).pin = f.pin ∧ (i.withOperands f).val = f.val ∧ ∀ o ∈ (i.withOperands f).freeOp, o = f.op := by
  cases i <;> simp [Instr.withOperands, Instr.pin, Instr.val, Instr.freeOp]

/-- Settles O2: the command's operands are the record's, whose fields are in range and whose operation byte is one of its bytes. -/
theorem decodedCommandIsWellFormed : Obligations.DecodedCommandIsWellFormed := by
  unfold Obligations.DecodedCommandIsWellFormed
  intro raw i hraw hdecode
  obtain ⟨f, hf, hselect⟩ := Machine.fieldsOf_of_decode hdecode
  obtain ⟨hpin, hval⟩ := fieldsOf_ranges hf
  obtain ⟨hp, hv, ho⟩ := i.withOperands_spec f
  rw [withOperands_of_select hselect] at hp hv ho
  refine i.wellFormed_iff.2 ⟨hp ▸ hpin, hv ▸ hval, fun o hfree hend => hraw ?_⟩
  rw [← hend, ho o hfree]
  exact op_mem_of_fieldsOf hf

/-! ### The encoder (R81, R90, R101) -/

/-- An encoding is the letters of the command's row and its operands, and decodes to the operands it was made from. -/
theorem encode_spec (i : Instr) : ∃ o, encode i = i.cmdByte :: o :: encodeNumbers i.pin i.val ∧ (∀ l ∈ i.opLetter, o = l) ∧
    (o = 0x3E#8 → i.freeOp = some o) ∧ i.withOperands ⟨i.cmdByte, o, i.pin, i.val⟩ = i := by
  cases i <;> exact ⟨_, rfl, by simp [Instr.opLetter], by simp [Instr.freeOp], rfl⟩

theorem cmdByte_ne_end (i : Instr) : i.cmdByte ≠ 0x3E#8 := by
  cases i <;> simp [Instr.cmdByte]

theorem parseDec_two_digitBytes {a b : Nat} (ha : a < 10) (hb : b < 10) :
    parseDec [digitByte a, digitByte b] = 10 * a + b := by
  obtain ⟨hda, hna, -⟩ := digitByte_spec ha
  obtain ⟨hdb, hnb, -⟩ := digitByte_spec hb
  rw [parseDec_two hda hdb, hna, hnb]

theorem parseDec_three_digitBytes {a b c : Nat} (ha : a < 10) (hb : b < 10) (hc : c < 10) :
    parseDec [digitByte a, digitByte b, digitByte c] = 100 * a + 10 * b + c := by
  obtain ⟨hda, hna, -⟩ := digitByte_spec ha
  obtain ⟨hdb, hnb, -⟩ := digitByte_spec hb
  obtain ⟨hdc, hnc, -⟩ := digitByte_spec hc
  rw [parseDec_three hda hdb hdc, hna, hnb, hnc]

section
variable {p v : Nat} (hp : p < 100) (hv : v < 1000)
include hp hv

/-- The numbers of a record read back as they were written. -/
theorem fieldsOf_encodeNumbers (c o : Byte) : fieldsOf (c :: o :: encodeNumbers p v) = some ⟨c, o, p, v⟩ := by
  have hpin : parseDec [digitByte (p / 10), digitByte (p % 10)] = p := by
    rw [parseDec_two_digitBytes (by omega) (by omega)]
    omega
  have hval : parseDec [digitByte (v / 100), digitByte (v / 10 % 10), digitByte (v % 10)] = v := by
    rw [parseDec_three_digitBytes (by omega) (by omega) (by omega)]
    omega
  simp only [encodeNumbers, fieldsOf, hpin, hval]

theorem end_notMem_encodeNumbers : 0x3E#8 ∉ encodeNumbers p v := by
  have hdigit : ∀ {n : Nat}, n < 10 → 0x3E#8 ≠ digitByte n := fun hn => (digitByte_spec hn).2.2.symm
  have h1 := hdigit (n := p / 10) (by omega)
  have h2 := hdigit (n := p % 10) (by omega)
  have h3 := hdigit (n := v / 100) (by omega)
  have h4 := hdigit (n := v / 10 % 10) (by omega)
  have h5 := hdigit (n := v % 10) (by omega)
  simp [encodeNumbers, h1, h2, h3, h4, h5]

end

/-- Settles O1: the encoding has the letters of the command's row, and its numbers read back as they were written. -/
theorem decodeOfEncodeIsIdentity : Obligations.DecodeOfEncodeIsIdentity := by
  unfold Obligations.DecodeOfEncodeIsIdentity
  intro i hwf
  obtain ⟨hpin, hval, hfree⟩ := i.wellFormed_iff.1 hwf
  obtain ⟨o, hencode, hletter, hend, hoperands⟩ := encode_spec i
  have ho : o ≠ 0x3E#8 := fun h => hfree o (hend h) h
  rw [hencode]
  refine ⟨?_, rfl, ?_⟩
  · calc decode (i.cmdByte :: o :: encodeNumbers i.pin i.val)
        = select ⟨i.cmdByte, o, i.pin, i.val⟩ := by rw [decode, fieldsOf_encodeNumbers hpin hval]
      _ = .command (i.withOperands ⟨i.cmdByte, o, i.pin, i.val⟩) := select_of_letters i _ rfl hletter
      _ = .command i := by rw [hoperands]
  · simp [(cmdByte_ne_end i).symm, ho.symm, end_notMem_encodeNumbers hpin hval]

end Sys2Proof

namespace Sys2Proof.Machine

/-! ### Numerals (R215) -/

/-- Fuel beyond the number changes nothing. -/
theorem decFuel_of_le {n fuel : Nat} (h : n ≤ fuel) : decFuel fuel n = dec n := by
  have hsucc : ∀ fuel n, n ≤ fuel → decFuel (fuel + 1) n = decFuel fuel n := by
    intro fuel
    induction fuel with
    | zero =>
      intro n hn
      obtain rfl := Nat.le_zero.1 hn
      rfl
    | succ fuel ih =>
      intro n hn
      conv_lhs => rw [decFuel, ih (n / 10) (by omega)]
      rfl
  induction fuel, h using Nat.le_induction with
  | base => rfl
  | succ fuel hle ih => rw [hsucc fuel n hle, ih]

theorem dec_of_lt {n : Nat} (h : n < 10) : dec n = [decDigit n] := by
  cases n with
  | zero => rfl
  | succ n => exact if_pos h

theorem dec_of_ge {n : Nat} (h : 10 ≤ n) : dec n = dec (n / 10) ++ [decDigit (n % 10)] := by
  cases n with
  | zero => simp at h
  | succ n => rw [dec, decFuel, if_neg (by omega), decFuel_of_le (by omega)]

/-- Induction along the recursion of R215. -/
theorem dec_induction {P : Nat → List Byte → Prop} (one : ∀ n, n < 10 → P n [decDigit n])
    (more : ∀ n, 10 ≤ n → P (n / 10) (dec (n / 10)) → P n (dec (n / 10) ++ [decDigit (n % 10)])) (n : Nat) : P n (dec n) := by
  induction n using Nat.strongRecOn with
  | ind n ih =>
    rcases Nat.lt_or_ge n 10 with h | h
    · exact dec_of_lt h ▸ one n h
    · exact dec_of_ge h ▸ more n h (ih (n / 10) (by omega))

theorem dec_digits (n : Nat) : dec n ≠ [] ∧ ∀ b ∈ dec n, isDigit b = true := decFuel_digits n n

theorem decDigit_value {n : Nat} (h : n < 10) : (decDigit n).toNat - 0x30 = n := (digitByte_spec h).2.1

/-- A numeral reads back as its number. -/
theorem parseDec_dec (n : Nat) : parseDec (dec n) = n := by
  refine dec_induction (P := fun n bs => parseDec bs = n) (fun n hn => ?_) (fun n _ ih => ?_) n
  · rw [← List.nil_append [decDigit n], parseDec_concat rfl (isDigit_decDigit hn), decDigit_value hn]
    exact Nat.zero_add n
  · have hlast : n % 10 < 10 := Nat.mod_lt n (by decide)
    rw [parseDec_concat (List.all_eq_true.2 (dec_digits _).2) (isDigit_decDigit hlast), ih, decDigit_value hlast]
    omega

/-- A numeral has no leading zero, but for the number 0. -/
theorem dec_head?_ne_zero (n : Nat) : n ≠ 0 → (dec n).head? ≠ some 0x30#8 := by
  refine dec_induction (P := fun n bs => n ≠ 0 → bs.head? ≠ some 0x30#8) (fun n hn h0 hhead => ?_) (fun n hn ih _ => ?_) n
  · have hbyte : decDigit n = 0x30#8 := Option.some.inj hhead
    exact h0 (by simpa [hbyte] using (decDigit_value hn).symm)
  · rw [List.head?_append_of_ne_nil _ (dec_digits _).1]
    exact ih (by omega)

/-- Settles O37: by the recursion of R215; a numeral that reads back as its number is that of no other. -/
theorem decIsShortestNumeral : Obligations.DecIsShortestNumeral := by
  unfold Obligations.DecIsShortestNumeral
  refine ⟨fun n => ?_, fun n => (dec_digits n).2, dec_head?_ne_zero, parseDec_dec, fun m n h => ?_⟩
  · split
    · next hn => exact dec_of_lt hn
    · next hn => exact dec_of_ge (Nat.le_of_not_lt hn)
  · rw [← parseDec_dec m, h, parseDec_dec]

/-! ### A record of the wrong length (R98, R231) -/

/-- Where everything flows, a condition's handling writes what comes before it and its report, and the block scans again (R243). -/
theorem State.raise_of_flows {s : State} (hf : s.Flows) (before : List Byte) (c : Condition) :
    s.raise before c = s.replied (sent (before ++ c.report s.cfg)) := by
  calc s.raise before c
      = run [.tx before, .tx (c.report s.cfg)] { s with ph := .exec } := rfl
    _ = run [.tx (c.report s.cfg)] { s with ph := .exec, trace := s.trace ++ sent before } :=
        run_tx_of_flows (s := { s with ph := .exec }) hf _ _
    _ = run [] { s with ph := .exec, trace := s.trace ++ sent before ++ sent (c.report s.cfg) } :=
        run_tx_of_flows (s := { s with ph := .exec, trace := s.trace ++ sent before }) hf _ _
    _ = s.replied (sent (before ++ c.report s.cfg)) := by simp [run, State.endCycle, State.replied, sent_append]

/-- A record of the wrong length is InvalidFrame (R125). -/
theorem rxClose_of_wrong_length {s : State} (hlen : s.raw.length ≠ 7) :
    rxClose s = .next (s.raise [] (.invalidFrame s.raw)) := by
  simp [rxClose, (fieldsOf_eq_none_iff s.raw).2 hlen]

/-- R124, R126: the end delimiter and a boundary close the record. -/
theorem collectEvent_of_close {e : RxEvent} (h : e = .byte 0x3E#8 ∨ e = .boundary) (s : State) : collectEvent e s = rxClose s := by
  rcases h with rfl | rfl <;> rfl

/-- Settles O11: the step is the event that closes the record, whose length is wrong. -/
theorem wrongLengthIsReportedOnce : Obligations.WrongLengthIsReportedOnce := by
  unfold Obligations.WrongLengthIsReportedOnce
  intro s e rest hp hout hf hr he hlen
  calc step s
      = rxClose { s with rx := rest } := by
        rw [step_of_quiet ⟨hout, hf.2⟩, act_of_collect hp hr, collectEvent_of_close he]
    _ = .next (State.raise [] (.invalidFrame s.raw) { s with rx := rest }) := rxClose_of_wrong_length hlen
    _ = .next (State.replied (sent (s.cfg.diagPrefix ++ s.raw ++ s.cfg.eol)) { s with rx := rest }) :=
        congrArg _ (State.raise_of_flows (s := { s with rx := rest }) hf [] _)

/-! ### The one-wire commands (R190, R191) -/

theorem tempToken_of_value {r : Reading} {x : ℝ} (h : r.value = some x) (cfg : Cfg) (n : Nat) :
    tempToken cfg n r = fmtReal cfg.eol x := by
  simp [tempToken, h]

/-- What both one-wire commands do with an answer at hand: the token is that of the reading, and a free token is one more draw. -/
theorem exec_oneWire_of_answer {op : Byte} {p v : Nat} {s : State} {a : Answer} (hf : s.Flows) (ha : s.nextAnswer = some a)
    {i : Instr} (hi : i = .owTemp op p v ∨ i = .owTempU op p v) :
    exec i s = .next { s.popAnswer.replied
      (sent (pinPreamble s.cfg p) ++ [.called (.owReadTempC p v 9), .returned (.owReadTempC p v 9)] ++
       sent (dec v ++ [0x25#8] ++ tempToken s.cfg s.popAnswer.draws a.first ++ s.cfg.eol)) with
        owOpen := false, draws := if a.first.isNaN then s.popAnswer.draws + 1 else s.popAnswer.draws } := by
  have hexec : exec i s = .next (s.begin [.tx (pinPreamble s.cfg p), .call (.owReadTempC p v 9) (.temp v)]) := by
    rcases hi with rfl | rfl <;> rfl
  have hpayload : s.popAnswer.payload (.temp v) a =
      dec v ++ [0x25#8] ++ tempToken s.cfg s.popAnswer.draws a.first ++ s.cfg.eol := by
    simp [State.payload, twoTokens, lastToken, sepByte]
  rw [hexec, State.begin_tx_call hf ha, hpayload]
  simp [State.replied, After.drawsToken, Call.usesOneWire, Call.usesDht]

/-- Settles O30: the token of a reading with a value is the formatted value, and no free token is drawn. -/
theorem oneWireReportsTemperature : Obligations.OneWireReportsTemperature := by
  unfold Obligations.OneWireReportsTemperature
  intro op p v s a x hf ha hx i hi
  rw [exec_oneWire_of_answer hf ha hi, tempToken_of_value hx, Reading.isNaN_of_value hx]
  rfl

/-- Settles O31: the token of a reading that is not-a-number is the free value of the draw. -/
theorem oneWireNanTokenIsFree : Obligations.OneWireNanTokenIsFree := by
  unfold Obligations.OneWireNanTokenIsFree
  intro op p v s a hf ha hnan i hi
  rw [exec_oneWire_of_answer hf ha hi, hnan]
  rfl

end Sys2Proof.Machine
end

section
/-! PROOFS. Obligations O8, O9, O10, O12, O13, O14, O15 and O17: what each RX event does outside and inside a frame, a whole record
between its delimiters, and the command a closed record runs. -/

namespace Sys2Proof.Machine

/-! ### Events outside a frame (R121, R122, R130) -/

/-- In SCAN a step is what its RX event does. -/
theorem step_of_scan {s : State} {e : RxEvent} {rest : List RxEvent} (hp : s.ph = .scan) (hq : s.Quiet) (hr : s.rx = e :: rest) :
    step s = scanEvent e { s with rx := rest } :=
  (step_of_quiet hq).trans (act_of_scan hp hr)

/-- Settles O8: the event is the start delimiter. -/
theorem startDelimiterOpensFrame : Obligations.StartDelimiterOpensFrame := by
  unfold Obligations.StartDelimiterOpensFrame
  exact fun s rest hp hq hr => step_of_scan hp hq hr

/-- Settles O9: the event is a byte that is not the start delimiter. -/
theorem noiseIsDropped : Obligations.NoiseIsDropped := by
  unfold Obligations.NoiseIsDropped
  exact fun s b rest hp hq hr hb => (step_of_scan hp hq hr).trans (if_neg hb)

theorem act_of_idle {s : State} (hp : s.ph ≠ .exec) (hr : s.rx = []) : act s = .next s := by
  cases h : s.ph with
  | exec => exact absurd h hp
  | scan | collect => simp [act, h, hr, rxIdle]

/-- Settles O13: an idle poll is a step that stays, and a boundary in SCAN is an event that does nothing. -/
theorem idlePollChangesNothing : Obligations.IdlePollChangesNothing := by
  unfold Obligations.IdlePollChangesNothing
  refine ⟨?idle, fun s rest hp hq hr => step_of_scan hp hq hr⟩
  case idle =>
    rintro s n ⟨hp, hr, hq⟩
    exact steps_of_fixed ((step_of_quiet hq).trans (act_of_idle hp hr)) n

/-! ### Events inside a frame (R123, R127, R128) -/

/-- In COLLECT a step is what its RX event does. -/
theorem step_of_collect {s : State} {e : RxEvent} {rest : List RxEvent} (hp : s.ph = .collect) (hq : s.Quiet)
    (hr : s.rx = e :: rest) : step s = collectEvent e { s with rx := rest } :=
  (step_of_quiet hq).trans (act_of_collect hp hr)

/-- A byte other than the end delimiter is appended; where RAW then is full, the record is closed. -/
theorem collectEvent_of_data {b : Byte} (hb : b ≠ 0x3E#8) (s : State) :
    collectEvent (.byte b) s =
      if s.cfg.rawMax = some (s.raw.length + 1) then rxClose { s with raw := s.raw ++ [b] }
      else .next { s with raw := s.raw ++ [b] } := by
  have hdata : collectEvent (.byte b) s = rxData b s := if_neg hb
  simp [hdata, rxData, rxFull, State.rawFull]

/-- Settles O10: the event is an interior byte that does not fill RAW. -/
theorem interiorByteIsAppended : Obligations.InteriorByteIsAppended := by
  unfold Obligations.InteriorByteIsAppended
  intro s b rest hp hq hr hb hroom
  rw [step_of_collect hp hq hr, collectEvent_of_data hb]
  exact if_neg hroom

/-- Where everything flows, closing a record of the wrong length writes its diagnostic and scans again (R125, R231). -/
theorem rxClose_reports_wrong_length {s : State} (hf : s.Flows) (hlen : s.raw.length ≠ 7) :
    rxClose s = .next (s.replied (sent (s.cfg.diagPrefix ++ s.raw ++ s.cfg.eol))) := by
  rw [rxClose_of_wrong_length hlen, State.raise_of_flows hf]
  rfl

/-- Settles O12: the event is an interior byte that fills RAW, and a full RAW, of at least eight bytes, has the wrong length. -/
theorem fullBufferClosesRecord : Obligations.FullBufferClosesRecord := by
  unfold Obligations.FullBufferClosesRecord
  intro s b rest n hp hout hf hr hb hmax hn hfull
  have hlen : (s.raw ++ [b]).length ≠ 7 := by
    simp only [List.length_append, List.length_singleton]
    omega
  calc step s
      = rxClose { s with rx := rest, raw := s.raw ++ [b] } := by
        rw [step_of_collect hp ⟨hout, hf.2⟩ hr, collectEvent_of_data hb]
        exact if_pos (hfull ▸ hmax)
    _ = .next (State.replied (sent (s.cfg.diagPrefix ++ (s.raw ++ [b]) ++ s.cfg.eol))
          { s with rx := rest, raw := s.raw ++ [b] }) :=
        rxClose_reports_wrong_length (s := { s with rx := rest, raw := s.raw ++ [b] }) hf hlen

/-! ### A whole record (R132) -/

/-- In COLLECT, interior bytes that do not fill RAW are appended to it one a step, and nothing else changes. -/
theorem steps_of_interior {rest : List RxEvent} (bytes : List Byte) : ∀ s : State, s.ph = .collect → s.Quiet →
    (∀ n ∈ s.cfg.rawMax, s.raw.length + bytes.length < n) → 0x3E#8 ∉ bytes → s.rx = bytes.map RxEvent.byte ++ rest →
    steps bytes.length s = .next { s with rx := rest, raw := s.raw ++ bytes } := by
  induction bytes with
  | nil =>
    intro s _ _ _ _ hr
    have hrx : rest = s.rx := hr.symm
    rw [hrx, List.append_nil]
    rfl
  | cons b bytes ih =>
    intro s hp hq hroom hend hr
    rw [List.mem_cons, not_or] at hend
    obtain ⟨hb, hbytes⟩ := hend
    have hnotFull : s.cfg.rawMax ≠ some (s.raw.length + 1) := by
      intro hmax
      have hlt := hroom _ hmax
      rw [List.length_cons] at hlt
      omega
    have hstep := interiorByteIsAppended s b (bytes.map RxEvent.byte ++ rest) hp hq hr (Ne.symm hb) hnotFull
    have hroom' : ∀ n ∈ s.cfg.rawMax, (s.raw ++ [b]).length + bytes.length < n := by
      intro n hn
      have hlt := hroom n hn
      simp only [List.length_append, List.length_cons, List.length_nil] at hlt ⊢
      omega
    have hsteps := ih { s with rx := bytes.map RxEvent.byte ++ rest, raw := s.raw ++ [b] } hp hq hroom' hbytes rfl
    rw [List.length_cons, steps_succ_of_next hstep, hsteps, List.append_assoc]
    rfl

/-- From SCAN, the start delimiter and interior bytes that do not fill RAW leave a frame open whose record is these bytes. -/
theorem steps_of_opened_record {s : State} {raw : List Byte} {rest : List RxEvent} (hp : s.ph = .scan) (hq : s.Quiet)
    (hroom : ∀ n ∈ s.cfg.rawMax, raw.length < n) (hend : 0x3E#8 ∉ raw)
    (hr : s.rx = .byte 0x3C#8 :: (raw.map RxEvent.byte ++ rest)) :
    steps (raw.length + 1) s = .next { s with rx := rest, raw := raw, ph := .collect } := by
  rw [steps_succ_of_next (startDelimiterOpensFrame s _ hp hq hr)]
  exact steps_of_interior raw { s with rx := raw.map RxEvent.byte ++ rest, raw := [], ph := .collect } rfl hq
    (by simpa using hroom) hend rfl

/-- Settles O14: eight steps open the frame and collect its bytes, and the ninth closes the record, which has fields. -/
theorem wholeFrameIsDispatched : Obligations.WholeFrameIsDispatched := by
  unfold Obligations.WholeFrameIsDispatched
  intro s b0 b1 b2 b3 b4 b5 b6 rest hp hq hroom hend hr
  refine ⟨_, steps_of_opened_record (raw := [b0, b1, b2, b3, b4, b5, b6]) hp hq hroom hend hr, ?_⟩
  exact step_of_collect (s := { s with rx := .byte 0x3E#8 :: rest, raw := [b0, b1, b2, b3, b4, b5, b6], ph := .collect }) rfl hq rfl

/-- Settles O15: the record is opened and collected, and the end delimiter closes it with its diagnostic. -/
theorem wholeBadRecordIsReportedOnce : Obligations.WholeBadRecordIsReportedOnce := by
  unfold Obligations.WholeBadRecordIsReportedOnce
  intro s raw rest hp hout hf hroom hlen hend hr
  have hopen := steps_of_opened_record hp ⟨hout, hf.2⟩ hroom hend hr
  have hclose := wrongLengthIsReportedOnce { s with rx := .byte 0x3E#8 :: rest, raw := raw, ph := .collect } _ rest rfl hout hf rfl
    (.inl rfl) hlen
  exact (steps_add_of_next hopen 1).trans (steps_succ_of_next hclose 0)

/-! ### The command a closed record runs (R129, R141, R142) -/

/-- Settles O17: the event closes the record, whose fields are written and select the command; its operands are the record's. -/
theorem stepRunsDecodedCommand : Obligations.StepRunsDecodedCommand := by
  unfold Obligations.StepRunsDecodedCommand
  intro s e rest i hp hout hr he hdecode
  obtain ⟨f, hf, hselect⟩ := fieldsOf_of_decode hdecode
  obtain ⟨hpin, hval, -⟩ := i.withOperands_spec f
  rw [withOperands_of_select hselect] at hpin hval
  have hact : act s = exec i (State.writeFields f { s with rx := rest }) := by
    rw [act_of_collect hp hr, collectEvent_of_close he]
    exact rxClose_of_select (s := { s with rx := rest }) hf hselect
  refine ⟨f, hf, hpin.symm, hval.symm, ?_, fun hnone => ?_⟩
  · exact (step_of_outside_nil hout).trans (congrArg strikeAfter hact)
  · exact (step_of_quiet ⟨hout, hnone⟩).trans hact

end Sys2Proof.Machine
end

section
/-! PROOFS. Obligations O19, O20, O34 and O51: every dispatch begins with its preamble, a record whose letters select no command writes
nothing else, and a command whose first call is not answered waits behind it. -/

namespace Sys2Proof

/-! ### Records that select no command (R96, R142) -/

/-- The four ways in which the letters of a record select no command. -/
theorem unrecognized_iff (c o : Byte) : Machine.unrecognized c o = true ↔
    c ∉ [Letter.z, Letter.A, Letter.D, Letter.M, Letter.w, Letter.W, Letter.S] ∨ (c = Letter.z ∧ o ∉ [Letter.z, Letter.v]) ∨
    ((c = Letter.A ∨ c = Letter.D) ∧ o ∉ [Letter.R, Letter.W]) ∨ (c = Letter.M ∧ o ∉ [Letter.I, Letter.P, Letter.O, Letter.R]) := by
  simp [Machine.unrecognized, or_assoc]

/-- Such a record is rejected, under one of two names. -/
theorem select_of_unrecognized {f : Fields} (h : Machine.unrecognized f.cmd f.op = true) :
    select f = .rejected .unrecognizedCommand ∨ select f = .rejected .unrecognizedOperation := by
  obtain ⟨c, o, p, v⟩ := f
  obtain ⟨-, -, hcommand, hoperation⟩ := selectionTable
  obtain ⟨hz, hA, hD, hM⟩ := hoperation o p v
  rcases (unrecognized_iff c o).1 h with hc | ⟨rfl, ho⟩ | ⟨rfl | rfl, ho⟩ | ⟨rfl, ho⟩
  · exact .inl (hcommand c o p v hc)
  · exact .inr (hz ho)
  · exact .inr (hA ho)
  · exact .inr (hD ho)
  · exact .inr (hM ho)

/-- Selection rejects no record for its length (R142). -/
theorem select_ne_wrongLength (f : Fields) : select f ≠ .rejected .wrongLength := by
  unfold select
  split_ifs <;> simp

end Sys2Proof

namespace Sys2Proof.Machine

/-! ### The dispatch of a record of seven bytes (R125, R141, R211) -/

/-- Selection reads the fields just written (R129, R142). -/
theorem State.writeFields_fields (f : Fields) (s : State) : (s.writeFields f).fields = f := rfl

/-- A record that has fields is dispatched with them. -/
theorem rxClose_of_fields {s : State} {f : Fields} (h : fieldsOf s.raw = some f) : rxClose s = dispatch (s.writeFields f) := by
  simp [rxClose, h]

/-- The preamble a record gets, as the statements write it. -/
theorem preamble_eq_ite (cfg : Cfg) (c : Byte) (p : Nat) :
    preamble cfg c p = if c = 0x7A#8 then idPreamble cfg else pinPreamble cfg p := rfl

/-- The preamble is chosen by the command byte, which is `z` in group `z` alone. -/
theorem preamble_cmdByte (cfg : Cfg) (i : Instr) :
    preamble cfg i.cmdByte i.pin = if i.isSystem then idPreamble cfg else pinPreamble cfg i.pin := by
  cases i <;> rfl

/-- Every dispatch begins with the preamble of its record, recognised or not (R141, R218). -/
theorem dispatch_begins_with_preamble (s : State) (f : Fields) :
    ∃ rest, dispatch (s.writeFields f) = .next ((s.writeFields f).begin (.tx (preamble s.cfg f.cmd f.pin) :: rest)) := by
  rcases hsel : select f with i | _ | _ | _ <;> simp only [dispatch, State.writeFields_fields, hsel]
  case command =>
    obtain ⟨hcmd, -⟩ := letters_of_select hsel
    have hpin := (i.withOperands_spec f).1
    rw [withOperands_of_select hsel] at hpin
    obtain ⟨rest, hcycle⟩ := cycleOf_starts_with_preamble s.cfg i
    rw [← preamble_cmdByte, ← hcmd, hpin] at hcycle
    exact ⟨rest, hcycle ▸ exec_eq_cycleOf i (s.writeFields f)⟩
  case rejected.wrongLength => exact absurd hsel (select_ne_wrongLength f)
  all_goals exact ⟨_, rfl⟩

/-! ### Cycles and TX where everything flows (R65) -/

/-- `s` with all of `bs` written to TX. -/
def State.written (bs : List Byte) (s : State) : State := { s with trace := s.trace ++ sent bs }

theorem State.written_tx (bs : List Byte) (s : State) : (s.written bs).tx = s.tx ++ bs := by
  simp [tx, written, sent, List.filterMap_map]

/-- A handling that has shown the bytes `bs` has appended them to TX. -/
theorem State.replied_sent_tx (bs : List Byte) (s : State) : (s.replied (sent bs)).tx = s.tx ++ bs :=
  s.written_tx bs

section
variable {s : State} (hf : s.Flows) (bs : List Byte) (rest : List Micro)
include hf

theorem State.begin_tx_of_flows : s.begin (.tx bs :: rest) = (s.written bs).begin rest :=
  run_tx_of_flows (s := { s with ph := .exec }) hf bs rest

/-- What a cycle writes first stands right behind what has been written. -/
theorem State.begin_tx_prefix : s.tx ++ bs <+: (s.begin (.tx bs :: rest)).tx := by
  rw [State.begin_tx_of_flows hf, ← State.written_tx]
  exact (run_extends_trace rest { s.written bs with ph := .exec }).filterMap _

end

/-! ### An unrecognised command or operation (R143, R144) -/

/-- The silent drop writes the preamble and scans again. -/
theorem dispatch_of_unrecognized {s : State} {f : Fields} (hf : s.Flows) (h : unrecognized f.cmd f.op = true) :
    dispatch (s.writeFields f) = .next ((s.writeFields f).replied (sent (preamble s.cfg f.cmd f.pin))) := by
  have hraise (c : Condition) (hc : c.report s.cfg = []) : State.raise (preamble s.cfg f.cmd f.pin) c (s.writeFields f) =
      (s.writeFields f).replied (sent (preamble s.cfg f.cmd f.pin)) := by
    have hreport : c.report (s.writeFields f).cfg = [] := hc
    rw [State.raise_of_flows (s := s.writeFields f) hf, hreport, List.append_nil]
  rcases select_of_unrecognized h with hsel | hsel <;> simp only [dispatch, State.writeFields_fields, hsel]
  · exact congrArg _ (hraise .unrecognizedCommand rfl)
  · exact congrArg _ (hraise .unrecognizedOperation rfl)

section
variable {s : State} {e : RxEvent} {rest : List RxEvent} {f : Fields} (hp : s.ph = .collect) (hout : s.outside = []) (hf : s.Flows)
  (hr : s.rx = e :: rest) (he : e = .byte 0x3E#8 ∨ e = .boundary) (hfields : fieldsOf s.raw = some f)
include hp hout hf hr he hfields

/-- The step that closes an unrecognised record writes the field registers and the preamble, and scans again. -/
theorem step_of_unrecognized (h : unrecognized f.cmd f.op = true) :
    step s = .next (State.replied (sent (preamble s.cfg f.cmd f.pin)) (State.writeFields f { s with rx := rest })) := by
  rw [step_of_collect hp ⟨hout, hf.2⟩ hr, collectEvent_of_close he, rxClose_of_fields (s := { s with rx := rest }) hfields]
  exact dispatch_of_unrecognized (s := { s with rx := rest }) hf h

/-- Outside group `z` that preamble has the pin token. -/
theorem step_of_unrecognized_ne_z (h : unrecognized f.cmd f.op = true) (hz : f.cmd ≠ 0x7A#8) :
    step s = .next (State.replied (sent (pinPreamble s.cfg f.pin)) (State.writeFields f { s with rx := rest })) := by
  rw [step_of_unrecognized hp hout hf hr he hfields h, preamble_eq_ite, if_neg hz]

end

/-- Settles O19: the command byte is none of the letters, so not `z`, and the preamble has the pin token. -/
theorem unrecognizedCommandWritesPreambleOnly : Obligations.UnrecognizedCommandWritesPreambleOnly := by
  unfold Obligations.UnrecognizedCommandWritesPreambleOnly
  intro s e rest f hp hout hf hr he hfields hcmd
  exact step_of_unrecognized_ne_z hp hout hf hr he hfields ((unrecognized_iff _ _).2 (.inl hcmd)) (List.ne_of_not_mem_cons hcmd)

/-- Settles O20: the operation byte is none of the group's, and of the four groups only `z` has a preamble without the pin token. -/
theorem unrecognizedOperationWritesPreambleOnly : Obligations.UnrecognizedOperationWritesPreambleOnly := by
  unfold Obligations.UnrecognizedOperationWritesPreambleOnly
  intro s e rest f hp hout hf hr he hfields
  refine ⟨fun h => ?pin, fun hcmd hop => ?id⟩
  case pin =>
    have hz : f.cmd ≠ 0x7A#8 := by
      rcases h with ⟨hc | hc, -⟩ | ⟨hc, -⟩ <;> simp [hc]
    exact step_of_unrecognized_ne_z hp hout hf hr he hfields ((unrecognized_iff _ _).2 (.inr (.inr h))) hz
  case id =>
    rw [step_of_unrecognized hp hout hf hr he hfields ((unrecognized_iff _ _).2 (.inr (.inl ⟨hcmd, hop⟩))), preamble_eq_ite, if_pos hcmd]
    rfl

/-! ### A first call that is not answered (R220, R277) -/

/-- The first call of a command stands right behind its preamble. -/
theorem cycleOf_of_firstCall {cfg : Cfg} {i : Instr} {c : Call} (h : firstCall cfg i = some c) :
    ∃ k rest, cycleOf cfg i = .tx (if i.isSystem then idPreamble cfg else pinPreamble cfg i.pin) :: .call c k :: rest := by
  cases i
  case sysVer => cases h
  case anaWr p v =>
    rw [firstCall] at h
    split_ifs at h with hp
    cases h
    have hpwm : pwmCapable cfg p = true := List.contains_iff_mem.2 hp
    rw [cycleOf, hpwm]
    exact ⟨_, _, rfl⟩
  all_goals
    cases h
    exact ⟨_, _, rfl⟩

/-- A call without an answer at hand is made, and the block waits at it in EXEC. -/
theorem State.begin_call_of_silence {s : State} (hf : s.Flows) (hsilent : s.nextAnswer = none) (c : Call) (k : After)
    (rest : List Micro) : s.begin (.call c k :: rest) = { s.issue c with ph := .exec, todo := .await c k :: rest } :=
  run_call_of_silence (s := { s with ph := .exec }) (State.struck_of_flows hf) hsilent c k rest

/-- Settles O34: the cycle writes its preamble, makes its first call and is left there. -/
theorem silentCollaboratorLeavesPreamble : Obligations.SilentCollaboratorLeavesPreamble := by
  unfold Obligations.SilentCollaboratorLeavesPreamble
  intro i c s hcall hf hsilent
  obtain ⟨k, rest, hcycle⟩ := cycleOf_of_firstCall hcall
  rw [exec_eq_cycleOf, hcycle, State.begin_tx_of_flows hf, State.begin_call_of_silence (s := s.written _) hf hsilent]
  exact ⟨_, k, rest, rfl, rfl, rfl, rfl, rfl⟩

/-! ### The item behind a preamble without a line break (R218, R272) -/

/-- What the handling of a closed record writes first: the preamble of a record of seven bytes, the diagnostic line of any other. -/
theorem rxClose_begins_with_itemStart {s t : State} (hf : s.Flows) (h : rxClose s = .next t) :
    s.tx ++ itemStart s.cfg s.raw <+: t.tx := by
  cases hfields : fieldsOf s.raw with
  | none =>
    have hlen := (fieldsOf_eq_none_iff s.raw).1 hfields
    cases (rxClose_reports_wrong_length hf hlen).symm.trans h
    rw [itemStart, hfields, State.replied_sent_tx]
  | some f =>
    obtain ⟨rest, hdispatch⟩ := dispatch_begins_with_preamble s f
    cases ((rxClose_of_fields hfields).trans hdispatch).symm.trans h
    rw [itemStart, hfields]
    exact State.begin_tx_prefix (s := s.writeFields f) hf _ rest

/-- Where everything flows SYS.VER writes its preamble and its reply, and the block scans again (R151). -/
theorem exec_sysVer_of_flows {s : State} (hf : s.Flows) (p v : Nat) :
    exec (.sysVer p v) s =
      .next (s.replied (sent (idPreamble s.cfg ++ labelVersion ++ [0x25#8] ++ s.cfg.fwVersion ++ s.cfg.eol))) := by
  have hexec : exec (.sysVer p v) s =
      .next (s.begin [.tx (idPreamble s.cfg), .tx (twoTokens s.cfg labelVersion s.cfg.fwVersion)]) := rfl
  rw [hexec, State.begin_tx_of_flows hf, State.begin_tx_of_flows (s := s.written (idPreamble s.cfg)) hf]
  simp [State.begin, run, State.endCycle, State.replied, State.written, sent_append, twoTokens, lastToken, sepByte]

/-- Settles O51: the drop leaves the block scanning, with the preamble as the end of TX; what is run next only adds to it. -/
theorem nextReplyJoinsDanglingPreamble : Obligations.NextReplyJoinsDanglingPreamble := by
  unfold Obligations.NextReplyJoinsDanglingPreamble
  intro s t f hf hunrec ht
  cases (dispatch_of_unrecognized hf hunrec).symm.trans ht
  rw [preamble_eq_ite]
  generalize (if f.cmd = 0x7A#8 then idPreamble s.cfg else pinPreamble s.cfg f.pin) = pre
  have htx : ((s.writeFields f).replied (sent pre)).tx = s.tx ++ pre := State.replied_sent_tx pre _
  refine ⟨rfl, htx, fun raw u hu => ?item, fun p v => ?version⟩
  case item =>
    obtain ⟨more, hmore⟩ := rxClose_begins_with_itemStart (s := { (s.writeFields f).replied (sent pre) with raw := raw }) hf hu
    rw [← htx]
    exact ⟨more, hmore.symm⟩
  case version =>
    rw [← htx]
    exact ⟨_, exec_sysVer_of_flows (s := (s.writeFields f).replied (sent pre)) hf p v, State.replied_sent_tx _ _⟩

end Sys2Proof.Machine
end

section
/-! PROOFS. Obligations O21 and O22: the commands of group `z` where everything flows. -/

namespace Sys2Proof.Machine

/-- Two tokens and the line break, as the statements write them (R212, R214). -/
theorem twoTokens_eq (cfg : Cfg) (first last : List Byte) : twoTokens cfg first last = first ++ [0x25#8] ++ last ++ cfg.eol :=
  (List.append_assoc _ _ _).symm

/-- A cycle of one call that opens no handle and draws no free token shows its preamble, the call and the reply with the answer, and
changes nothing else but that the answer is used up (R51, R145). -/
theorem State.begin_tx_call_eq_replied {s : State} {a : Answer} (hf : s.Flows) (ha : s.nextAnswer = some a) (pre : List Byte)
    {c : Call} {k : After} (hw : c.usesOneWire = false) (hd : c.usesDht = false) (hk : k.drawsToken a = false) :
    s.begin [.tx pre, .call c k] =
      s.popAnswer.replied (sent pre ++ [.called c, .returned c] ++ sent (s.popAnswer.payload k a)) := by
  rw [State.begin_tx_call hf ha]
  simp [State.replied, State.popAnswer, hw, hd, hk]

/-- Settles O21: the cycle makes the one call, and its reply is the label and the number answered. -/
theorem sysMemReportsFreeMemory : Obligations.SysMemReportsFreeMemory := by
  unfold Obligations.SysMemReportsFreeMemory
  intro p v s a hf ha
  have hexec : exec (.sysMem p v) s = .next (s.begin [.tx (idPreamble s.cfg), .call .freeMemory .freeMem]) := rfl
  have hpayload : s.popAnswer.payload .freeMem a = s.cfg.labelFreemem ++ [0x25#8] ++ dec a.number ++ s.cfg.eol :=
    twoTokens_eq s.cfg s.cfg.labelFreemem (dec a.number)
  rw [hexec, State.begin_tx_call_eq_replied hf ha (idPreamble s.cfg) rfl rfl rfl, hpayload]

/-- Settles O22: the bytes of the preamble and of the reply, written one behind the other. -/
theorem sysVerReportsVersion : Obligations.SysVerReportsVersion := by
  unfold Obligations.SysVerReportsVersion
  intro p v s hf
  rw [exec_sysVer_of_flows hf, ← sent_append]
  simp only [List.append_assoc]

end Sys2Proof.Machine
end

section
/-! PROOFS. Obligations O23, O24 and O25: the commands of group `A`. -/

namespace Sys2Proof.Machine

/-! ### Lines of a cycle where everything flows (R65, R51) -/

/-- A cycle of bytes alone writes them one behind the other, and the block scans again (R145). -/
theorem State.begin_txs_of_flows (lines : List (List Byte)) :
    ∀ {s : State}, s.Flows → s.begin (lines.map .tx) = s.replied (sent lines.flatten) := by
  induction lines with
  | nil =>
    intro s _
    simp [State.begin, run, State.endCycle, State.replied, sent]
  | cons bs more ih =>
    intro s hf
    rw [List.map_cons, State.begin_tx_of_flows hf, ih (s := s.written bs) hf]
    simp [State.replied, State.written, sent_append]

/-- A call that is answered, opens no handle and returns nothing to be written shows itself and its return, and the cycle goes on
with the answer used up. -/
theorem State.begin_call_of_answer {s : State} {a : Answer} (hf : s.Flows) (ha : s.nextAnswer = some a) {c : Call}
    (hw : c.usesOneWire = false) (hd : c.usesDht = false) (rest : List Micro) :
    s.begin (.call c .nothing :: rest) =
      State.begin rest { s.popAnswer with trace := s.trace ++ [.called c, .returned c] } := by
  rw [State.begin, run_call_of_answer (s := { s with ph := .exec }) hf ha]
  simp [State.begin, State.popAnswer, State.payload, After.drawsToken, sent, hw, hd]

/-- A cycle that writes its preamble, makes one such call and writes a reply that does not depend on the answer. -/
theorem State.begin_tx_call_tx_eq_replied {s : State} {a : Answer} (hf : s.Flows) (ha : s.nextAnswer = some a)
    (pre reply : List Byte) {c : Call} (hw : c.usesOneWire = false) (hd : c.usesDht = false) :
    s.begin [.tx pre, .call c .nothing, .tx reply] =
      s.popAnswer.replied (sent pre ++ [.called c, .returned c] ++ sent reply) := by
  rw [State.begin_tx_of_flows hf, State.begin_call_of_answer (s := s.written pre) hf ha hw hd]
  refine (State.begin_txs_of_flows [reply] ?_).trans ?_
  · exact hf
  · simp [State.replied, State.written, State.popAnswer]

/-! ### Lines without a call (R51) -/

/-- Lines without a call leave the list of calls made as it was, whatever the transport takes and wherever a reset falls due. -/
theorem run_keeps_calls {ms : List Micro} (h : ∀ m ∈ ms, m.isCallOf (fun _ => true) = false) (s : State) :
    (run ms s).calls = s.calls :=
  run_keeps_of_no_call State.calls (fun _ => true) (fun _ _ => State.calls_of_sent rfl) (by simp) (by simp) (fun _ _ _ => rfl)
    (fun _ => rfl) (fun _ _ => rfl) ms h s

/-! ### ANA.RD (R160) -/

/-- Settles O23: the cycle makes the one call, and its reply is the number answered. -/
theorem anaRdReportsReading : Obligations.AnaRdReportsReading := by
  unfold Obligations.AnaRdReportsReading
  intro p v s a hf ha
  have hexec : exec (.anaRd p v) s = .next (s.begin [.tx (pinPreamble s.cfg p), .call (.analogRead p) .number]) := rfl
  have hpayload : s.popAnswer.payload .number a = dec a.number ++ s.cfg.eol := rfl
  rw [hexec, State.begin_tx_call_eq_replied hf ha (pinPreamble s.cfg p) rfl rfl rfl, hpayload]

/-! ### ANA.WR (R161, R235) -/

theorem pwmCapable_iff (cfg : Cfg) (p : Nat) : pwmCapable cfg p = true ↔ p ∈ cfg.pwmSet := List.contains_iff_mem

/-- A pin in PWM_SET is written between the preamble and the echo. -/
theorem exec_anaWr_of_pwm {p : Nat} {s : State} (hp : p ∈ s.cfg.pwmSet) (v : Nat) :
    exec (.anaWr p v) s = .next (s.begin
      [.tx (pinPreamble s.cfg p), .call (.analogWrite p v) .nothing, .tx (dec v ++ s.cfg.eol)]) := by
  rw [exec_eq_cycleOf, cycleOf, if_pos ((pwmCapable_iff s.cfg p).2 hp)]
  rfl

/-- For any other pin NonPwmPinWrite is handled there, which writes nothing (R235). -/
theorem exec_anaWr_of_not_pwm {p : Nat} {s : State} (hp : p ∉ s.cfg.pwmSet) (v : Nat) :
    exec (.anaWr p v) s = .next (s.begin ([pinPreamble s.cfg p, [], dec v ++ s.cfg.eol].map .tx)) := by
  rw [exec_eq_cycleOf, cycleOf, if_neg (mt (pwmCapable_iff s.cfg p).1 hp)]
  rfl

/-- Settles O24: the preamble and the echo are written on both paths, and the pin decides whether the call stands between them. -/
theorem anaWrWritesPwmPinsOnly : Obligations.AnaWrWritesPwmPinsOnly := by
  unfold Obligations.AnaWrWritesPwmPinsOnly
  intro p v s hf
  refine ⟨fun a hp ha => ?pwm, fun hp => ?other⟩
  case pwm =>
    rw [exec_anaWr_of_pwm hp, State.begin_tx_call_tx_eq_replied hf ha _ _ rfl rfl]
  case other =>
    rw [exec_anaWr_of_not_pwm hp, State.begin_txs_of_flows _ hf, ← sent_append]
    simp only [List.flatten_cons, List.flatten_nil, List.nil_append, List.append_nil]

/-- Settles O25: outside PWM_SET no line of the cycle is a call. -/
theorem nonPwmPinIsNeverWritten : Obligations.NonPwmPinIsNeverWritten := by
  unfold Obligations.NonPwmPinIsNeverWritten
  intro p v s t hp h
  cases (exec_anaWr_of_not_pwm hp v).symm.trans h
  exact run_keeps_calls (by simp [Micro.isCallOf]) { s with ph := .exec }

end Sys2Proof.Machine
end

section
/-! PROOFS. Obligations O26 and O27: the commands of group `D`. -/

namespace Sys2Proof.Machine

/-! ### Levels (R52, R171) -/

/-- The value of a written level is VAL's truth value (R171). -/
theorem levelOf_eq_ite (v : Nat) : levelOf v = if v = 0 then false else true := by
  cases v <;> rfl

/-- The numeral of a level is the one digit 1 or 0 (R52, R215). -/
theorem dec_levelNumber (level : Bool) : dec (levelNumber level) = if level then [0x31#8] else [0x30#8] := by
  cases level <;> rfl

/-- What a level read writes: the numeral of the level and the line break (R213, R219). -/
theorem State.payload_level (s : State) (a : Answer) :
    s.payload .level a = (if a.level then [0x31#8] else [0x30#8]) ++ s.cfg.eol :=
  congrArg (· ++ s.cfg.eol) (dec_levelNumber a.level)

/-! ### DIG.RD (R170) -/

/-- Settles O26: the cycle makes the one call, and its reply is the level answered. -/
theorem digRdReportsLevel : Obligations.DigRdReportsLevel := by
  unfold Obligations.DigRdReportsLevel
  intro p v s a hf ha
  have hexec : exec (.digRd p v) s = .next (s.begin [.tx (pinPreamble s.cfg p), .call (.digitalRead p) .level]) := rfl
  rw [hexec, State.begin_tx_call_eq_replied hf ha (pinPreamble s.cfg p) rfl rfl rfl, State.payload_level, State.popAnswer_cfg]

/-! ### DIG.WR (R171) -/

/-- The last call of a cycle, where it opens no handle and draws no free token, shows itself, its return and the reply with the
answer, and changes nothing else but that the answer is used up (R51, R145). -/
theorem State.begin_call_eq_replied {s : State} {a : Answer} (hf : s.Flows) (ha : s.nextAnswer = some a) {c : Call} {k : After}
    (hw : c.usesOneWire = false) (hd : c.usesDht = false) (hk : k.drawsToken a = false) :
    s.begin [.call c k] = s.popAnswer.replied ([.called c, .returned c] ++ sent (s.popAnswer.payload k a)) := by
  rw [State.begin, run_call_of_answer (s := { s with ph := .exec }) hf ha]
  simp [run, State.endCycle, State.replied, State.popAnswer, State.payload, hw, hd, hk]

/-- A cycle that writes its preamble and makes two such calls, of which the first returns nothing to be written: the second is
answered by the next answer, and its payload is the reply. -/
theorem State.begin_tx_call_call_eq_replied {s : State} {a o : Answer} (hf : s.Flows) (ha : s.nextAnswer = some a)
    (ho : s.popAnswer.nextAnswer = some o) (pre : List Byte) {c d : Call} {k : After}
    (hcw : c.usesOneWire = false) (hcd : c.usesDht = false) (hdw : d.usesOneWire = false) (hdd : d.usesDht = false)
    (hk : k.drawsToken o = false) :
    s.begin [.tx pre, .call c .nothing, .call d k] =
      s.popAnswer.popAnswer.replied
        (sent pre ++ [.called c, .returned c, .called d, .returned d] ++ sent (s.popAnswer.popAnswer.payload k o)) := by
  rw [State.begin_tx_of_flows hf, State.begin_call_of_answer (s := s.written pre) hf ha hcw hcd,
    State.begin_call_eq_replied (a := o) ?flows ?answer hdw hdd hk]
  case flows => exact hf
  case answer => exact ho
  simp [State.replied, State.written, State.popAnswer, State.payload]

/-- Settles O27: the write's answer is used up unread, and the level reported is that of the read behind it. -/
theorem digWrReportsLevelReadBack : Obligations.DigWrReportsLevelReadBack := by
  unfold Obligations.DigWrReportsLevelReadBack
  intro p v s a o hf ha ho
  have hexec : exec (.digWr p v) s = .next (s.begin
      [.tx (pinPreamble s.cfg p), .call (.digitalWrite p (levelOf v)) .nothing, .call (.digitalRead p) .level]) := rfl
  rw [hexec, State.begin_tx_call_call_eq_replied hf ha ho (pinPreamble s.cfg p) rfl rfl rfl rfl rfl, State.payload_level,
    levelOf_eq_ite, State.popAnswer_cfg, State.popAnswer_cfg]

end Sys2Proof.Machine
end

section
/-! PROOFS. Obligations O28 and O29: the commands of group `M`. -/

namespace Sys2Proof.Machine

/-! ### MODE.RD (R183) -/

/-- What a mode read writes: the numeral of the constant that reports the mode, and the line break (R213, R219). -/
theorem State.payload_mode (s : State) (a : Answer) :
    s.payload .mode a = dec (modeConstant s.cfg a.mode) ++ s.cfg.eol := rfl

/-- Settles O29: the cycle makes the one call, and for each mode answered its reply is the constant of that mode. -/
theorem modeRdReportsModeRead : Obligations.ModeRdReportsModeRead := by
  unfold Obligations.ModeRdReportsModeRead
  intro p v s a hf ha
  have hexec : exec (.modeRd p v) s = .next (s.begin [.tx (pinPreamble s.cfg p), .call (.readMode p) .mode]) := rfl
  rw [hexec, State.begin_tx_call_eq_replied hf ha (pinPreamble s.cfg p) rfl rfl rfl, State.payload_mode, State.popAnswer_cfg]
  cases a.mode <;> rfl

/-! ### MODE.IN, MODE.PU and MODE.OUT (R180 to R182) -/

/-- A configuring command shows the call with the mode asked for and reports that mode's constant, whatever is answered. -/
theorem configurePin_eq_replied {s : State} {a : Answer} (hf : s.Flows) (ha : s.nextAnswer = some a) (p : Nat) (m : PinMode) :
    configurePin p m s = s.popAnswer.replied
      (sent (pinPreamble s.cfg p) ++ [.called (.pinMode p m), .returned (.pinMode p m)] ++
       sent (dec (modeConstant s.cfg m) ++ s.cfg.eol)) :=
  State.begin_tx_call_tx_eq_replied hf ha (pinPreamble s.cfg p) (dec (modeConstant s.cfg m) ++ s.cfg.eol) rfl rfl

/-- Settles O28: each of the three is the configuring command of its own mode. -/
theorem pinModeIsConfigured : Obligations.PinModeIsConfigured := by
  unfold Obligations.PinModeIsConfigured
  intro p v s a hf ha
  exact ⟨congrArg Host.Outcome.next (configurePin_eq_replied hf ha p .inp),
    congrArg Host.Outcome.next (configurePin_eq_replied hf ha p .inpPullup),
    congrArg Host.Outcome.next (configurePin_eq_replied hf ha p .out)⟩

end Sys2Proof.Machine
end

section
/-! PROOFS. Obligation O32: the command of group `S`. -/

namespace Sys2Proof.Machine

/-! ### The two readings (R200) -/

/-- Two numbers are one token, humidity and temperature with a colon between them (R200, R213). -/
theorem State.payload_dht_of_values {a : Answer} {h t : ℝ} (hh : a.first.value = some h) (ht : a.second.value = some t)
    (s : State) : s.payload .dht a = fmtReal s.cfg.eol h ++ [0x3A#8] ++ fmtReal s.cfg.eol t ++ s.cfg.eol := by
  have hgood : dhtFailed a = false := by
    rw [dhtFailed, Reading.isNaN_of_value hh, Reading.isNaN_of_value ht, Bool.or_self]
  simp [State.payload, hgood, hh, ht, lastToken, colonByte]

/-- One bad reading is enough for the failure message (R234). -/
theorem State.payload_dht_of_nan {a : Answer} (hnan : a.first = .nan ∨ a.second = .nan) (s : State) :
    s.payload .dht a = msgDhtFail ++ s.cfg.eol := by
  have hbad : dhtFailed a = true := by
    rw [dhtFailed, Bool.or_eq_true]
    exact hnan.imp (congrArg Reading.isNaN) (congrArg Reading.isNaN)
  exact if_pos hbad

/-! ### DHT.RD (R200) -/

/-- With an answer at hand the command makes its one call and writes the answer's payload, and the handle is released whatever the
readings are (R61). -/
theorem exec_dhtRd_of_answer {s : State} {a : Answer} (hf : s.Flows) (ha : s.nextAnswer = some a) (op : Byte) (p v : Nat) :
    exec (.dhtRd op p v) s = .next { s.popAnswer.replied
      (sent (pinPreamble s.cfg p) ++ [.called (.dhtRead p v), .returned (.dhtRead p v)] ++
       sent (s.popAnswer.payload .dht a)) with dhtOpen := false } := by
  have hexec : exec (.dhtRd op p v) s = .next (s.begin [.tx (pinPreamble s.cfg p), .call (.dhtRead p v) .dht]) := rfl
  rw [hexec, State.begin_tx_call hf ha]
  simp [State.replied, State.popAnswer, After.drawsToken, Call.usesOneWire, Call.usesDht]

/-- Settles O32: the answer's two readings decide between the payload of two numbers and the failure message. -/
theorem dhtRdReportsReadingsOrFailure : Obligations.DhtRdReportsReadingsOrFailure := by
  unfold Obligations.DhtRdReportsReadingsOrFailure
  intro op p v s a hf ha
  refine ⟨fun h t hh ht => ?numbers, fun hnan => ?failure⟩
  case numbers =>
    rw [exec_dhtRd_of_answer hf ha, State.payload_dht_of_values hh ht, State.popAnswer_cfg]
  case failure =>
    rw [exec_dhtRd_of_answer hf ha, State.payload_dht_of_nan hnan, State.popAnswer_cfg]

end Sys2Proof.Machine
end
